-- ==== Sys2Proof/Word.lean ====
section
/-! DEFINITION. The words of PMRX: a byte, a 16-bit concentration, the 9-bit buffer index and the 32-bit deadline counter
(R10), and the two shapes in which an instruction reaches the block (R50, R77). -/

namespace Sys2Proof

/-- A byte: "every byte is 8 bits" (R10). -/
abbrev Byte := BitVec 8

/-- A concentration register's word: 16 bits, unsigned (R10, R26). -/
abbrev Half := BitVec 16

/-- A buffer index: 9 bits, "enough for index 256 when BUF_CAP = 256" (R10, R19). -/
abbrev Index := BitVec 9

/-- A word of the deadline counter: 32 bits (R10, R21). -/
abbrev Ticks := BitVec 32

/-- What the block takes an instruction from: a fired request, the pair (`req_op`, `req_data`) of R50, or the two header
bytes of a reply in arrival order (R60, R61). -/
inductive Presented where
  | request (op : BitVec 3) (data : Byte)
  | header (b0 b1 : Byte)
  deriving DecidableEq, Repr

end Sys2Proof
end

