-- ==== Sys2Proof/Config.lean ====
section
/-! DEFINITION. The build-time parameters of PMRX with their legal ranges (R9), the ports the environment drives (R48), the
moves the environment may make at one clock edge (R8, R116), and the free values (opaque: nothing can evaluate them). -/

namespace Sys2Proof

/-- BUF_CAP: "16 ≤ BUF_CAP ≤ 256" (R9). -/
abbrev BufCap := { n : Nat // 16 ≤ n ∧ n ≤ 256 }

/-- TIMEOUT_CYCLES: "1 ≤ TIMEOUT_CYCLES ≤ 2^32 − 1" (R9). -/
abbrev TimeoutCycles := { n : Nat // 1 ≤ n ∧ n ≤ 4294967295 }

/-- CLK_HZ: "> 0" (R9). That it is a whole number of hertz is the MODEL'S choice (DESIGN CHOICE, log 3): R9 does not say so. -/
abbrev ClkHz := { n : Nat // 0 < n }

/-- The parameters of R9, each with its legal range. CMD_READ_MEAS is fixed (`Config.cmdReadMeas`); the other six command
bytes "need not be distinct" (R9). CLK_HZ enters no step rule: it gives the recommended TIMEOUT_CYCLES
(`Config.recommendedTimeout`). -/
structure Config where
  bufCap : BufCap
  timeoutCycles : TimeoutCycles
  clkHz : ClkHz
  cmdStartMeas : Byte
  cmdStopMeas : Byte
  cmdSetCoef : Byte
  cmdReadCoef : Byte
  cmdStopAutosend : Byte
  cmdEnAutosend : Byte
  deriving DecidableEq, Repr

/-- CMD_READ_MEAS, "fixed 0x04" (R9). -/
def Config.cmdReadMeas : Byte := 0x04

/-- BUF_CAP as a number of bytes. -/
def Config.cap (c : Config) : Nat := c.bufCap.val

/-- TIMEOUT_CYCLES as a number of cycles. -/
def Config.timeout (c : Config) : Nat := c.timeoutCycles.val

/-- The recommended TIMEOUT_CYCLES of R9 and D9, round(0.050 × CLK_HZ); a half rounds up (DESIGN CHOICE, log 3). -/
def Config.recommendedTimeout (c : Config) : Nat := (c.clkHz.val * 50 + 500) / 1000

/-- The parameters State.reset stands with: BUF_CAP 16 and the default command codes of R9 (PRESUMED: the spec marks the codes
as general knowledge); TIMEOUT_CYCLES 3, the value of the vectors of 95_test_vectors.md, and CLK_HZ 60, for which 3 is the recommended value (DESIGN
CHOICE: R9 leaves both OPEN). Log 3: claims quantify over every configuration. -/
def Config.default : Config where
  bufCap := ⟨16, by decide⟩
  timeoutCycles := ⟨3, by decide⟩
  clkHz := ⟨60, by decide⟩
  cmdStartMeas := 0x01
  cmdStopMeas := 0x02
  cmdSetCoef := 0x08
  cmdReadCoef := 0x10
  cmdStopAutosend := 0x20
  cmdEnAutosend := 0x40

/-- A request on the request port (R50): `req_op[2:0]` and `req_data[7:0]`. -/
structure Request where
  op : BitVec 3
  data : Byte
  deriving DecidableEq, Repr

/-- The input ports sampled at one clock edge (R48). `req` is `req_valid` with `req_op` and `req_data`; `rx` is `rx_valid`
with `rx_data`: absent when valid = 0, since "their values in other cycles have no effect" (R49). -/
structure PortIn where
  rst : Bool
  req : Option Request
  txReady : Bool
  txErr : Bool
  rx : Option Byte
  rxErr : Bool
  bufRaddr : Index
  deriving DecidableEq, Repr

/-- One move of the environment, for one clock edge (R8, R116): the reset line, the requester's offer, the transport's answer on
TX, the bytes that reach the transport from the sensor before this edge, whether the transport offers its oldest held byte,
its error levels, and the buffer read address. -/
structure Edge where
  rst : Bool
  req : Option Request
  txReady : Bool
  txErr : Bool
  arrivals : List Byte
  rxOffer : Bool
  rxErr : Bool
  bufRaddr : Index
  deriving DecidableEq, Repr, Inhabited

/-- FREE VALUE. The content of BUF[i] after power-up: "a model draws it as any value" (R15, R120; log 4). -/
opaque Config.bufPowerUp : Nat → Byte

/-- FREE VALUE. The content of the `k`-th register after power-up, before the first reset: "every state element is unspecified:
a model draws any value" (R122; log 16). -/
opaque Config.powerUp : Nat → Ticks

/-- FREE VALUE. The environment's move at a clock edge no script fixes: "All non-determinism of a run lies in the inputs ...
A model takes these as free inputs" (R68; log 1). -/
opaque Config.freeEdge : Nat → Edge

end Sys2Proof
end

