-- ==== Sys2Proof/Machine/State.lean ====
section
/-! DEFINITION. The state of PMRX (R15) with the agents around it that hold state, the outcomes of a step that are no next state,
and the state after reset (R120, R122). -/

namespace Sys2Proof.Machine

/-- ST, the sequencer state (R16): no exchange; discarding; sending; two header bytes; LEN+1 body bytes. `unused n` is the
encoding 5 + n, which R16 says is never reached and which only a power-up before the first reset can leave (R122; log 7). -/
inductive SeqState where
  | idle
  | flush
  | tx
  | rxHdr
  | rxBody
  | unused (n : Fin 3)
  deriving DecidableEq, Repr

/-- The seven operations of R50, whose codes OP latches. The reserved code is never latched (R62); only a power-up before the
first reset can leave it in OP (R122; log 7). -/
inductive Op where
  | readMeas
  | startMeas
  | stopMeas
  | setCoef
  | readCoef
  | enAutosend
  | stopAutosend
  deriving DecidableEq, Repr

/-- The closed result set (R58, R105), whose codes CODE records. -/
inductive Result where
  | ok
  | transportError
  | timeout
  | deviceRejected
  | checksumError
  deriving DecidableEq, Repr

/-- The reply an operation expects (R51): two equal bytes, or a data frame. -/
inductive ReplyKind where
  | ack
  | data
  deriving DecidableEq, Repr

/-- BUF as data: the bytes written since power-up, by index, indices strictly rising. An index that is not listed holds the
free byte `Config.bufPowerUp` of its power-up content (log 4). -/
abbrev Memory := List Host.Cell

/-- The transport (R33, R116): the received bytes it holds, oldest first, and the bytes it was handed on the TX port, oldest
first. PMRX reaches it only through the ports. -/
structure Transport where
  held : List Byte
  sent : List Byte
  deriving DecidableEq, Repr

/-- The machine. The first sixteen fields are PMRX's state, one for one the table of R15. `cfg` is its build-time parameters,
which no step writes; `link` is the transport; `script` and `draws` are the model's own: the environment's coming moves, one
a clock edge, and how many moves were drawn freely (log 1, log 3, log 10). -/
structure State where
  st : SeqState
  op : BitVec 3
  data : Byte
  buf : Memory
  idx : Index
  acc : Byte
  tmr : Ticks
  code : BitVec 3
  done : Bool
  pm1_0 : Half
  pm2_5 : Half
  pm4_0 : Half
  pm10 : Half
  pmValid : Bool
  coef : Byte
  paylen : Byte
  cfg : Config
  link : Transport
  script : List Edge
  draws : Nat
  deriving DecidableEq, Repr

/-- Why the machine stops with a fault. The spec gives PMRX none ("No PMRX behaviour is a fault", 93_implementation_defined.md):
all four guard states no run from reset reaches (log 6). -/
inductive Fault where
  /-- Raised by the TX, RX_HDR and RX_BODY rules when IDX names no byte of BUF, which R19 says never happens. Safe: the model
  stops where the spec gives nothing. -/
  | bufIndexOutOfRange (index : Nat)
  /-- Raised by Finish when OP is an ack-kind operation, for which R93 and R94 give no decoder. Safe: the model stops where the
  spec gives nothing. -/
  | noDecoder (op : Op)
  /-- Raised by the TX rule, the header rows and Finish when OP holds the reserved code, for which R51 gives no frame length and
  no reply kind; only a power-up before the first reset leaves it there (R122). Safe: the model stops where the spec gives
  nothing. -/
  | noOperation
  /-- Raised by a clock edge without reset when ST holds an unused encoding, 5 + n, for which R68 gives no rule; only a power-up
  before the first reset leaves it there (R122). Safe: the model stops where the spec gives nothing. -/
  | noSequencerState (n : Fin 3)
  deriving DecidableEq, Repr

/-- Why an instruction is refused. -/
inductive Refusal where
  /-- Raised by an arm of `exec` whose instruction has no meaning yet; no arm is one. Safe. -/
  | notModelled (mnemonic : String)
  /-- Raised by RESERVED: "the behaviour of PMRX is undefined, and a model refuses the request" (R62). Safe. -/
  | reservedRequest
  deriving DecidableEq, Repr

/-- What a meaning or a rule answers. -/
abbrev StepResult := Host.Outcome State Fault Refusal

/-- The output ports (R48) at one clock cycle. -/
structure PortOut where
  reqReady : Bool
  txValid : Bool
  txData : Byte
  rxReady : Bool
  status : Byte
  done : Bool
  busy : Bool
  pm1_0 : Half
  pm2_5 : Half
  pm4_0 : Half
  pm10 : Half
  pmValid : Bool
  coef : Byte
  paylen : Byte
  bufRdata : Byte
  deriving DecidableEq, Repr

/-- What a reply decode writes (R93, R94): nothing, the four concentrations with PM_VALID, or the coefficient. -/
inductive Writes where
  | none
  | measurement (pm1_0 pm2_5 pm4_0 pm10 : Half) (valid : Bool)
  | coefficient (value : Byte)
  deriving DecidableEq, Repr

/-- The machine right after reset: ResetState (R120), with BUF unspecified (nothing listed), a quiet transport and no scripted
move; the parameters are `Config.default` (log 3, log 13). -/
def State.reset : State where
  st := .idle
  op := 0
  data := 0x00
  buf := []
  idx := 0
  acc := 0x00
  tmr := 0
  code := 0
  done := false
  pm1_0 := 0x0000
  pm2_5 := 0x0000
  pm4_0 := 0x0000
  pm10 := 0x0000
  pmValid := false
  coef := 0x00
  paylen := 0x00
  cfg := Config.default
  link := { held := [], sent := [] }
  script := []
  draws := 0

end Sys2Proof.Machine
end

