-- ==== Sys2Proof/Machine/Flags.lean ====
section
/-! DEFINITION. The 8-bit checksum arithmetic (R11, R12, R81, R85) and the status encodings: CODE, ST and OP as bits, BUSY, and
the packed STATUS word (R16, R22, R24, R50, R58). -/

namespace Sys2Proof.Machine

/-- Σ8: the sum of a list's bytes mod 256 (R11). -/
def sum8 : List Byte → Byte
  | [] => 0
  | b :: bs => b + sum8 bs

/-- chk8: `-8 Σ8` of the bytes (R12). -/
def chk8 (bs : List Byte) : Byte := -sum8 bs

/-- ST's encoding (R16). -/
def SeqState.bits : SeqState → BitVec 3
  | .idle => 0
  | .flush => 1
  | .tx => 2
  | .rxHdr => 3
  | .rxBody => 4
  | .unused n => BitVec.ofNat 3 (5 + n.val)

/-- ST from its encoding. -/
def SeqState.ofBits (b : BitVec 3) : SeqState :=
  if b = 0 then .idle
  else if b = 1 then .flush
  else if b = 2 then .tx
  else if b = 3 then .rxHdr
  else if b = 4 then .rxBody
  else if b = 5 then .unused 0
  else if b = 6 then .unused 1
  else .unused 2

/-- The operation codes of R50. -/
def Op.bits : Op → BitVec 3
  | .readMeas => 0b000
  | .startMeas => 0b001
  | .stopMeas => 0b010
  | .setCoef => 0b011
  | .readCoef => 0b100
  | .enAutosend => 0b101
  | .stopAutosend => 0b110

/-- The operation a code names; the reserved code names none (R62). -/
def Op.ofBits (b : BitVec 3) : Option Op :=
  if b = 0b000 then some .readMeas
  else if b = 0b001 then some .startMeas
  else if b = 0b010 then some .stopMeas
  else if b = 0b011 then some .setCoef
  else if b = 0b100 then some .readCoef
  else if b = 0b101 then some .enAutosend
  else if b = 0b110 then some .stopAutosend
  else none

/-- code(K), what CODE records of a result (R58, R109). -/
def Result.bits : Result → BitVec 3
  | .ok => 0
  | .transportError => 1
  | .timeout => 2
  | .deviceRejected => 3
  | .checksumError => 4

/-- BUSY is `ST ≠ IDLE` (R24). -/
def State.busy (s : State) : Bool := s.st != .idle

/-- STATUS (R22): reserved zeros in 7:5, BUSY in 4, DONE in 3, CODE in 2:0. -/
def State.status (s : State) : Byte :=
  0#3 ++ BitVec.ofBool s.busy ++ BitVec.ofBool s.done ++ s.code

end Sys2Proof.Machine
end

