-- ==== Sys2Proof/Machine/Operands.lean ====
section
/-! DEFINITION. What the operations read: bytes of BUF (R34, R38, R46), 16-bit values (R39, R91), the command decoder (R51), the
request frame (R52, R53), the numbered registers (R31) and the output ports (R48). -/

namespace Sys2Proof.Machine

/-- The byte an index was last given since power-up, if any. -/
def Memory.lookup : Memory → Nat → Option Byte
  | [], _ => none
  | (j, c) :: m, i => if j = i then some c else Memory.lookup m i

/-- MemRead(i, 1) (R12): what index `i` of BUF holds; the free power-up content where nothing was written (R15, log 4). -/
def Memory.read (m : Memory) (i : Nat) : Byte := (m.lookup i).getD (Config.bufPowerUp i)

/-- `BUF[i]`. -/
def State.byteAt (s : State) (i : Nat) : Byte := s.buf.read i

/-- The buffer read port (R46): `BUF[buf_raddr]`, or 0x00 at or beyond BUF_CAP. -/
def State.bufRdata (s : State) (raddr : Index) : Byte :=
  if raddr.toNat < s.cfg.cap then s.byteAt raddr.toNat else 0x00

/-- `u16(hi, lo)`: big-endian, `zext_16(hi) << 8 | zext_16(lo)` (R39, R91). -/
def u16 (hi lo : Byte) : Half := (hi.setWidth 16 <<< 8) ||| lo.setWidth 16

/-- CmdCode of an operation (R51). -/
def cmdCode (cfg : Config) : Op → Byte
  | .readMeas => Config.cmdReadMeas
  | .startMeas => cfg.cmdStartMeas
  | .stopMeas => cfg.cmdStopMeas
  | .setCoef => cfg.cmdSetCoef
  | .readCoef => cfg.cmdReadCoef
  | .enAutosend => cfg.cmdEnAutosend
  | .stopAutosend => cfg.cmdStopAutosend

/-- TxLen of an operation (R51). -/
def txLen : Op → Nat
  | .readMeas => 4
  | .startMeas => 4
  | .stopMeas => 4
  | .setCoef => 5
  | .readCoef => 4
  | .enAutosend => 4
  | .stopAutosend => 4

/-- Kind of an operation (R51). -/
def kind : Op → ReplyKind
  | .readMeas => .data
  | .startMeas => .ack
  | .stopMeas => .ack
  | .setCoef => .ack
  | .readCoef => .data
  | .enAutosend => .ack
  | .stopAutosend => .ack

/-- A frame of the command-only and query form (R52). -/
def shortFrame (c : Byte) : List Byte := [0x68, 0x01, c, chk8 [0x68, 0x01, c]]

/-- A frame of the command-with-data form (R53). -/
def dataFrame (c d : Byte) : List Byte := [0x68, 0x02, c, d, chk8 [0x68, 0x02, c, d]]

/-- The request frame of an operation (R51, R71): only SET_COEF sends its data byte. -/
def requestFrame (cfg : Config) (op : Op) (d : Byte) : List Byte :=
  match op with
  | .setCoef => dataFrame (cmdCode cfg .setCoef) d
  | .readMeas => shortFrame (cmdCode cfg .readMeas)
  | .startMeas => shortFrame (cmdCode cfg .startMeas)
  | .stopMeas => shortFrame (cmdCode cfg .stopMeas)
  | .readCoef => shortFrame (cmdCode cfg .readCoef)
  | .enAutosend => shortFrame (cmdCode cfg .enAutosend)
  | .stopAutosend => shortFrame (cmdCode cfg .stopAutosend)

/-- `req_ready`: `ST = IDLE` (R48). -/
def State.reqReady (s : State) : Bool := s.st == .idle

/-- `tx_valid`: `ST = TX` (R48). -/
def State.txValid (s : State) : Bool := s.st == .tx

/-- `tx_data`: `BUF[IDX]` while `ST = TX`, else 0x00 (R48). -/
def State.txData (s : State) : Byte := if s.st = .tx then s.byteAt s.idx.toNat else 0x00

/-- `rx_ready`: `ST ∈ {IDLE, FLUSH, RX_HDR, RX_BODY}` (R48). -/
def State.rxReady (s : State) : Bool :=
  match s.st with
  | .idle => true
  | .flush => true
  | .tx => false
  | .rxHdr => true
  | .rxBody => true
  | .unused _ => false

/-- The output ports of a cycle: functions of the state, but for `buf_rdata`, which reads `buf_raddr` too (R48, R67). -/
def portsOut (raddr : Index) (s : State) : PortOut where
  reqReady := s.reqReady
  txValid := s.txValid
  txData := s.txData
  rxReady := s.rxReady
  status := s.status
  done := s.done
  busy := s.busy
  pm1_0 := s.pm1_0
  pm2_5 := s.pm2_5
  pm4_0 := s.pm4_0
  pm10 := s.pm10
  pmValid := s.pmValid
  coef := s.coef
  paylen := s.paylen
  bufRdata := s.bufRdata raddr

/-- The visible registers by number (R31), zero-extended to the widest, 16 bits; there is no register above 7. -/
def State.visibleReg (s : State) : Nat → Option Half
  | 0 => some (s.status.setWidth 16)
  | 1 => some s.pm1_0
  | 2 => some s.pm2_5
  | 3 => some s.pm4_0
  | 4 => some s.pm10
  | 5 => some ((BitVec.ofBool s.pmValid).setWidth 16)
  | 6 => some (s.coef.setWidth 16)
  | 7 => some (s.paylen.setWidth 16)
  | _ => none

end Sys2Proof.Machine
end

