-- ==== Sys2Proof/Machine/Environment.lean ====
section
/-! DEFINITION. The agents around PMRX at one clock edge (R8, R116): the environment's move, the input ports it makes, and what
the transport holds and has been handed after the edge. None of it reads or writes PMRX's own state but through the ports. -/

namespace Sys2Proof.Machine

/-- The environment's move at the next edge: the script's first, or a free draw (R68; log 1). -/
def State.edge (s : State) : Edge :=
  match s.script with
  | e :: _ => e
  | [] => Config.freeEdge s.draws

/-- The script after this edge. -/
def State.scriptAfter (s : State) : List Edge := s.script.tail

/-- The draws after this edge. -/
def State.drawsAfter (s : State) : Nat :=
  match s.script with
  | _ :: _ => s.draws
  | [] => s.draws + 1

/-- The bytes the transport holds at the edge, oldest first: those it held and those that arrived (R116: arrival order). -/
def heldAt (e : Edge) (s : State) : List Byte := s.link.held ++ e.arrivals

/-- The input ports at the edge: the transport offers its oldest held byte, if it holds one and likes to (R116). -/
def portsIn (e : Edge) (s : State) : PortIn where
  rst := e.rst
  req := e.req
  txReady := e.txReady
  txErr := e.txErr
  rx := if e.rxOffer then (heldAt e s).head? else none
  rxErr := e.rxErr
  bufRaddr := e.bufRaddr

/-- The RX port transfers: valid and ready both 1 (R49). -/
def fireRx (inp : PortIn) (s : State) : Bool := inp.rx.isSome && s.rxReady

/-- The TX port transfers: valid and ready both 1 (R49). -/
def fireTx (inp : PortIn) (s : State) : Bool := s.txValid && inp.txReady

/-- The request port transfers: valid and ready both 1 (R49). -/
def fireReq (inp : PortIn) (s : State) : Bool := inp.req.isSome && s.reqReady

/-- The transport after the edge: an offered byte leaves it when it transfers (R41), in a reset cycle too (R120), and a byte
taken on TX is handed to it (R49, R120; log 10). -/
def linkAfter (e : Edge) (s : State) : Transport where
  held := if fireRx (portsIn e s) s then (heldAt e s).tail else heldAt e s
  sent := if fireTx (portsIn e s) s then s.link.sent ++ [s.txData] else s.link.sent

/-- The state with the environment moved past this edge. -/
def State.afterEdge (s : State) : State :=
  { s with link := linkAfter s.edge s, script := s.scriptAfter, draws := s.drawsAfter }

end Sys2Proof.Machine
end

