-- ==== Sys2Proof/Syntax.lean ====
section
/-! DEFINITION. The instructions of PMRX: one constructor for each row of the opcode table. -/

namespace Sys2Proof

/-- The opcode table's rows. The first eight are the requests of R50 and R62, with the byte `req_data` that every request
carries; the last four are the header pairs of R60, R61 and R77. -/
inductive Instr where
  | readMeas (data : Byte)
  | startMeas (data : Byte)
  | stopMeas (data : Byte)
  | setCoef (data : Byte)
  | readCoef (data : Byte)
  | enAutosend (data : Byte)
  | stopAutosend (data : Byte)
  | reserved (data : Byte)
  | rxHdrAckAck
  | rxHdrNackNack
  | rxHdrResp (len : Byte)
  | rxHdrOther (b0 b1 : Byte)
  deriving DecidableEq, Repr

end Sys2Proof
end

