-- ==== Sys2Proof/WellFormed.lean ====
section
/-! DEFINITION. Which instruction terms stand for something the block can be handed. Every operand of every row takes every
value of its width, but for RX_HDR_OTHER: its row is the table's last, of the lowest priority, so its pair is one that no
row above it matches (R60, R61, R77). -/

namespace Sys2Proof

/-- The pair is not `A5 A5`, which is RX_HDR_ACK_ACK's. -/
def Instr.notAckPair (b0 b1 : Byte) : Bool := !(b0 == 0xA5 && b1 == 0xA5)

/-- The pair is not `96 96`, which is RX_HDR_NACK_NACK's. -/
def Instr.notNackPair (b0 b1 : Byte) : Bool := !(b0 == 0x96 && b1 == 0x96)

/-- The first byte is not 0x40, which is RX_HDR_RESP's. -/
def Instr.notResp (b0 : Byte) : Bool := !(b0 == 0x40)

/-- An instruction term is well formed. -/
def Instr.wf : Instr → Bool
  | .readMeas _ => true
  | .startMeas _ => true
  | .stopMeas _ => true
  | .setCoef _ => true
  | .readCoef _ => true
  | .enAutosend _ => true
  | .stopAutosend _ => true
  | .reserved _ => true
  | .rxHdrAckAck => true
  | .rxHdrNackNack => true
  | .rxHdrResp _ => true
  | .rxHdrOther b0 b1 => notAckPair b0 b1 && notNackPair b0 b1 && notResp b0

end Sys2Proof
end

