-- ==== Sys2Proof/Decode.lean ====
section
/-! DEFINITION. The decoder and the encoder. A request is read from `req_op[2:0]` and `req_data[7:0]` (R50, R62), a header
from its two bytes (R60, R61, R77). Both decoders are total; from a run of bytes, only bytes that are missing are refused,
by name. -/

namespace Sys2Proof

/-- A fired request, by its operation code (R50); 0b111 is the reserved row (R62). -/
def decodeRequest (op : BitVec 3) (data : Byte) : Instr :=
  if op = 0b000 then .readMeas data
  else if op = 0b001 then .startMeas data
  else if op = 0b010 then .stopMeas data
  else if op = 0b011 then .setCoef data
  else if op = 0b100 then .readCoef data
  else if op = 0b101 then .enAutosend data
  else if op = 0b110 then .stopAutosend data
  else .reserved data

/-- A header pair, by the table's rows in the table's order: `A5 A5`, `96 96`, `40 xx`, any other (R60, R61, R77). -/
def decodeHeader (b0 b1 : Byte) : Instr :=
  if b0 = 0xA5 ∧ b1 = 0xA5 then .rxHdrAckAck
  else if b0 = 0x96 ∧ b1 = 0x96 then .rxHdrNackNack
  else if b0 = 0x40 then .rxHdrResp b1
  else .rxHdrOther b0 b1

/-- The decoder: every presented request and every pair of header bytes is one instruction. -/
def decode : Presented → Instr
  | .request op data => decodeRequest op data
  | .header b0 b1 => decodeHeader b0 b1

/-- The opcode table's two formats. -/
inductive Format where
  | req
  | rxHeader
  deriving DecidableEq, Repr

/-- Why a run of bytes holds no instruction. -/
inductive DecodeError where
  /-- A request is an operation byte and a data byte; one of them is missing. -/
  | truncatedRequest
  /-- "A reply always begins with exactly two header bytes" (R59); one of them is missing. -/
  | truncatedHeader
  deriving DecidableEq, Repr

/-- An instruction from the front of a run of bytes, and the bytes after it. A request lies as its operation byte (`req_op` in
bits 2:0, the bits of the table's mask 0x7; the port has no bits 7:3, log 5) and its data byte; a header lies in wire order. -/
def decodeBytes : Format → List Byte → Except DecodeError (Instr × List Byte)
  | .req, w :: data :: rest => .ok (decode (.request (w.extractLsb' 0 3) data), rest)
  | .req, _ => .error .truncatedRequest
  | .rxHeader, b0 :: b1 :: rest => .ok (decode (.header b0 b1), rest)
  | .rxHeader, _ => .error .truncatedHeader

/-- The encoder, from the tables of R50, R60 and R61. -/
def encode : Instr → Presented
  | .readMeas data => .request 0b000 data
  | .startMeas data => .request 0b001 data
  | .stopMeas data => .request 0b010 data
  | .setCoef data => .request 0b011 data
  | .readCoef data => .request 0b100 data
  | .enAutosend data => .request 0b101 data
  | .stopAutosend data => .request 0b110 data
  | .reserved data => .request 0b111 data
  | .rxHdrAckAck => .header 0xA5 0xA5
  | .rxHdrNackNack => .header 0x96 0x96
  | .rxHdrResp len => .header 0x40 len
  | .rxHdrOther b0 b1 => .header b0 b1

/-- The bytes of an instruction, in the layout `decodeBytes` reads. -/
def encodeBytes (i : Instr) : Format × List Byte :=
  match encode i with
  | .request op data => (.req, [op.setWidth 8, data])
  | .header b0 b1 => (.rxHeader, [b0, b1])

/-- The format an opcode-table word of `nbits` bits has: a request row gives 3 bits (one byte), a header row 16. -/
def tableFormat (nbits : Nat) : Format := if nbits ≤ 8 then .req else .rxHeader

/-- The bytes of an opcode-table word, first byte first: a request's operation byte is bits 7:0 and its data byte bits 15:8;
a header's first byte is bits 15:8 and its second bits 7:0, as the table's rows say. -/
def tableBytes (nbits w : Nat) : List Byte :=
  match tableFormat nbits with
  | .req => [BitVec.ofNat 8 w, BitVec.ofNat 8 (w / 256)]
  | .rxHeader => [BitVec.ofNat 8 (w / 256), BitVec.ofNat 8 w]

/-- The instruction the decoder reads from an opcode-table word. -/
def decodeTableWord (nbits w : Nat) : Option Instr :=
  match decodeBytes (tableFormat nbits) (tableBytes nbits w) with
  | .ok (i, _) => some i
  | .error _ => none

/-- An instruction as an opcode-table word: how many bits its row has, and the word. -/
def encodeTableWord (i : Instr) : Nat × Nat :=
  match encode i with
  | .request op data => (8, data.toNat * 256 + op.toNat)
  | .header b0 b1 => (16, b0.toNat * 256 + b1.toNat)

/-- One row of the opcode table: a word `w` of the row's format is the row's when `w &&& mask = matchBits`. -/
structure TableRow where
  format : Format
  matchBits : Nat
  mask : Nat
  deriving DecidableEq, Repr

/-- The opcode table's row of each instruction, transcribed from its "match" and "mask". -/
def tableRow : Instr → TableRow
  | .readMeas _ => ⟨.req, 0x0, 0x7⟩
  | .startMeas _ => ⟨.req, 0x1, 0x7⟩
  | .stopMeas _ => ⟨.req, 0x2, 0x7⟩
  | .setCoef _ => ⟨.req, 0x3, 0x7⟩
  | .readCoef _ => ⟨.req, 0x4, 0x7⟩
  | .enAutosend _ => ⟨.req, 0x5, 0x7⟩
  | .stopAutosend _ => ⟨.req, 0x6, 0x7⟩
  | .reserved _ => ⟨.req, 0x7, 0x7⟩
  | .rxHdrAckAck => ⟨.rxHeader, 0xA5A5, 0xFFFF⟩
  | .rxHdrNackNack => ⟨.rxHeader, 0x9696, 0xFFFF⟩
  | .rxHdrResp _ => ⟨.rxHeader, 0x4000, 0xFF00⟩
  | .rxHdrOther _ _ => ⟨.rxHeader, 0x0000, 0x0000⟩

/-- A word meets a table row. -/
def TableRow.admits (r : TableRow) (w : Nat) : Bool := w &&& r.mask == r.matchBits

end Sys2Proof
end

