-- ==== Sys2Proof/Machine/Ops.lean ====
section
/-! DEFINITION. The operations every instruction and every sequencer rule is built from: writing BUF, completion (the
trap-entry analogue, R109), acceptance with the frame builder (R70, R71), the byte part of the receiver (R76, R79, R81), the
deadline (R82), the deserializer (R91 to R96), Finish (R80), the header results (R77) and reset (R120). -/

namespace Sys2Proof.Machine

/-! ## Memory -/

/-- MemWrite(i, 1, b) (R12): one byte, the list kept in rising order of index. -/
def Memory.write : Memory → Nat → Byte → Memory
  | [], i, b => [(i, b)]
  | (j, c) :: m, i, b =>
    if i < j then (i, b) :: (j, c) :: m
    else if i = j then (i, b) :: m
    else (j, c) :: Memory.write m i b

/-- Bytes written at rising indices from `i`. -/
def Memory.writeList : Memory → Nat → List Byte → Memory
  | m, _, [] => m
  | m, i, b :: bs => Memory.writeList (m.write i b) (i + 1) bs

/-- Every index of the list lies at or above `lo`, and indices strictly rise. -/
def Memory.risesFrom : Nat → Memory → Bool
  | _, [] => true
  | lo, (j, _) :: m => decide (lo ≤ j) && Memory.risesFrom (j + 1) m

/-- The canonical form: indices strictly rise. An unlisted index reads as a byte nothing fixes, so no listed byte can be said
to equal it: an index is listed exactly when it has been written since power-up (log 4). -/
def Memory.wf (m : Memory) : Bool := Memory.risesFrom 0 m

/-- Every listed index is an index of a buffer of `cap` bytes (R34). -/
def Memory.within (cap : Nat) (m : Memory) : Bool := m.all fun c => decide (c.1 < cap)

/-! ## Completion and acceptance -/

/-- complete(K) (R109) without the decode's writes: CODE, DONE, ST, IDX and TMR. `raise E` is complete(E) (R12). -/
def complete (k : Result) (s : State) : State :=
  { s with code := k.bits, done := true, st := .idle, idx := 0, tmr := 0 }

/-- Accept(op, d) (R70): the request is latched, DONE cleared, the frame staged from BUF[0] (R71), FLUSH entered. -/
def accept (op : Op) (d : Byte) (s : State) : State :=
  { s with
    op := op.bits
    data := d
    done := false
    buf := s.buf.writeList 0 (requestFrame s.cfg op d)
    st := .flush }

/-- A request of one of the seven operations at the port: it fires only in IDLE, where `req_ready = 1`; elsewhere nothing
transfers and it has no effect (R24, R44, R49, R69; log 9). -/
def presentRequest (op : Op) (d : Byte) (s : State) : StepResult :=
  if s.st = .idle then .next (accept op d s) else .next s

/-! ## The deadline and the receiver -/

/-- The wait expires in this cycle if nothing transfers: `TMR == TIMEOUT_CYCLES - 1` (R73, R75, R82). -/
def State.deadlineDue (s : State) : Bool := s.tmr.toNat + 1 == s.cfg.timeout

/-- `TMR <- TMR + 1` (R82). -/
def State.countWait (s : State) : State := { s with tmr := s.tmr + 1 }

/-- A wait of the receiver (R75, R78): an error input beats a byte, a byte beats expiry; `take` is what a byte does. -/
def receiveWait (inp : PortIn) (s : State) (take : Byte → StepResult) : StepResult :=
  if inp.rxErr then .next (complete .transportError s)
  else
    match inp.rx with
    | some b => take b
    | none => if s.deadlineDue then .next (complete .timeout s) else .next s.countWait

/-- The part every stored reply byte has (R76, R79, R81): `BUF[IDX] <- b`, `ACC <- ACC +8 b`, `TMR <- 0`. -/
def State.storeReply (b : Byte) (s : State) : State :=
  { s with buf := s.buf.write s.idx.toNat b, acc := s.acc + b, tmr := 0 }

/-- Do `k` when IDX is an index of BUF; R19 says it always is when it is used (log 6). -/
def whenIndexed (s : State) (k : StepResult) : StepResult :=
  if s.idx.toNat < s.cfg.cap then k else .fault (.bufIndexOutOfRange s.idx.toNat)

/-- Do `k` with the operation latched in OP (R17, R51); R62 says OP never holds the reserved code once reset (log 6). -/
def whenOperation (s : State) (k : Op → StepResult) : StepResult :=
  match Op.ofBits s.op with
  | some op => k op
  | none => .fault .noOperation

/-- `IDX <- IDX + 1`. -/
def State.nextIndex (s : State) : State := { s with idx := s.idx + 1 }

/-! ## The deserializer -/

/-- Decode(READ_MEAS) over the reply's bytes (R93): LEN 13 is compact, LEN 5 standard, and the echo is the command sent (R92). -/
def decodeMeas (rd : Nat → Byte) : Result × Writes :=
  if rd 1 = 13 ∧ rd 2 = Config.cmdReadMeas then
    (.ok, .measurement (u16 (rd 3) (rd 4)) (u16 (rd 5) (rd 6)) (u16 (rd 7) (rd 8)) (u16 (rd 9) (rd 10)) true)
  else if rd 1 = 5 ∧ rd 2 = Config.cmdReadMeas then
    (.ok, .measurement 0x0000 (u16 (rd 3) (rd 4)) 0x0000 (u16 (rd 5) (rd 6)) false)
  else (.transportError, .none)

/-- Decode(READ_COEF) over the reply's bytes (R94). -/
def decodeCoef (cfg : Config) (rd : Nat → Byte) : Result × Writes :=
  if rd 1 = 2 ∧ rd 2 = cfg.cmdReadCoef then (.ok, .coefficient (rd 3)) else (.transportError, .none)

/-- Decode of an operation (R80, R93, R94); an ack-kind one has none. -/
def decodeReply (cfg : Config) (op : Op) (rd : Nat → Byte) : Option (Result × Writes) :=
  match op with
  | .readMeas => some (decodeMeas rd)
  | .readCoef => some (decodeCoef cfg rd)
  | .startMeas => none
  | .stopMeas => none
  | .setCoef => none
  | .enAutosend => none
  | .stopAutosend => none

/-- The decode's writes on the result registers (R93, R94, R96). -/
def applyWrites (w : Writes) (s : State) : State :=
  match w with
  | .none => s
  | .measurement a b c d v => { s with pm1_0 := a, pm2_5 := b, pm4_0 := c, pm10 := d, pmValid := v }
  | .coefficient v => { s with coef := v }

/-- Finish(a) (R80), `a` the accumulated sum of the whole reply: the checksum is tested before the decode, and PAYLEN is
written once it passes, whatever the decode then says. -/
def finish (a : Byte) (s : State) : StepResult :=
  if a ≠ 0x00 then .next (complete .checksumError s)
  else
    whenOperation s fun op =>
      match decodeReply s.cfg op s.byteAt with
      | some (k, w) => .next (complete k (applyWrites w { s with paylen := s.byteAt 1 }))
      | none => .fault (.noDecoder op)

/-! ## Header results -/

/-- The block is about to classify a header: RX_HDR with the first byte stored (R76, R77). -/
def State.classifying (s : State) : Bool := s.st == .rxHdr && s.idx != 0

/-- A header pair's result by the kind of the operation in progress (R77). Where no header is being classified, bytes are not
header bytes and the pair has no effect (R59, R112; log 9). -/
def classify (ack data : State → State) (s : State) : StepResult :=
  if s.classifying then
    whenOperation s fun op =>
      match kind op with
      | .ack => .next (ack s)
      | .data => .next (data s)
  else .next s

/-- The length check of a data reply (R61, R64, R77): unsigned, on 9 bits. -/
def lengthFits (cfg : Config) (len : Byte) : Bool := decide (len.toNat ≤ cfg.cap - 3)

/-- `ST <- RX_BODY; IDX <- 2`, or TransportError before any body read (R77). -/
def enterBody (len : Byte) (s : State) : State :=
  if lengthFits s.cfg len then { s with st := .rxBody, idx := 2 } else complete .transportError s

/-! ## Reset and power-up -/

/-- ResetState (R120): every element of R15 but BUF. -/
def resetState (s : State) : State :=
  { s with
    st := .idle
    op := 0
    data := 0x00
    idx := 0
    acc := 0x00
    tmr := 0
    code := 0
    done := false
    pm1_0 := 0x0000
    pm2_5 := 0x0000
    pm4_0 := 0x0000
    pm10 := 0x0000
    pmValid := false
    coef := 0x00
    paylen := 0x00 }

/-- The machine after power-up, before the first reset: every element of R15 is a draw, one free value for each, and BUF lists
nothing (R122; log 16). The parameters, the transport and the environment's moves are what they are. -/
def State.powerUp (cfg : Config) (link : Transport) (script : List Edge) : State where
  st := SeqState.ofBits ((Config.powerUp 0).setWidth 3)
  op := (Config.powerUp 1).setWidth 3
  data := (Config.powerUp 2).setWidth 8
  buf := []
  idx := (Config.powerUp 3).setWidth 9
  acc := (Config.powerUp 4).setWidth 8
  tmr := Config.powerUp 5
  code := (Config.powerUp 6).setWidth 3
  done := (Config.powerUp 7).getLsbD 0
  pm1_0 := (Config.powerUp 8).setWidth 16
  pm2_5 := (Config.powerUp 9).setWidth 16
  pm4_0 := (Config.powerUp 10).setWidth 16
  pm10 := (Config.powerUp 11).setWidth 16
  pmValid := (Config.powerUp 12).getLsbD 0
  coef := (Config.powerUp 13).setWidth 8
  paylen := (Config.powerUp 14).setWidth 8
  cfg := cfg
  link := link
  script := script
  draws := 0

end Sys2Proof.Machine
end

