-- ==== Sys2Proof/Machine/Fetch.lean ====
section
/-! DEFINITION. Where PMRX takes an instruction from, as a placement of its bytes: PMRX fetches nothing (R16, R45); a request is
taken from the request port in IDLE, a header from the RX port in RX_HDR (log 2). -/

namespace Sys2Proof.Machine

/-- A clock edge at which nothing is driven. -/
def quietEdge : Edge where
  rst := false
  req := none
  txReady := false
  txErr := false
  arrivals := []
  rxOffer := false
  rxErr := false
  bufRaddr := 0

/-- `s` in IDLE with a request offered at the next edge. -/
def offerRequest (op : BitVec 3) (data : Byte) (s : State) : State :=
  { s with st := .idle, script := { quietEdge with req := some { op := op, data := data } } :: s.script }

/-- `s` in RX_HDR with `b0` stored as the first header byte, and `b1` held by the transport and offered at the next edge. -/
def offerHeader (b0 b1 : Byte) (s : State) : State :=
  { s with
    st := .rxHdr
    idx := 1
    buf := s.buf.write 0 b0
    link := { s.link with held := b1 :: s.link.held }
    script := { quietEdge with rxOffer := true } :: s.script }

/-- `s` with an instruction's bytes placed where the next step takes them from; with bytes missing, `s` itself. -/
def placeBytes : Format → List Byte → State → State
  | .req, w :: data :: _, s => offerRequest (w.extractLsb' 0 3) data s
  | .rxHeader, b0 :: b1 :: _, s => offerHeader b0 b1 s
  | .req, _, s => s
  | .rxHeader, _, s => s

end Sys2Proof.Machine
end

