-- ==== Sys2Proof/Machine/Headers.lean ====
section
/-! DEFINITION. The meanings of the header rows: the result of a header pair in the cycle its second byte is stored, by the
kind of the operation in progress (R60, R61, R77). -/

namespace Sys2Proof.Machine

/-- `A5 A5`: Ok for an ack-kind operation, TransportError for a data-kind one (R60, R61). -/
def execRxHdrAckAck (s : State) : StepResult := classify (complete .ok) (complete .transportError) s

/-- `96 96`: DeviceRejected for either kind (R60, R61). -/
def execRxHdrNackNack (s : State) : StepResult := classify (complete .deviceRejected) (complete .deviceRejected) s

/-- `40 LEN`: for a data-kind operation the body is read, if LEN fits; for an ack-kind one it is a malformed pair (R60, R61). -/
def execRxHdrResp (len : Byte) (s : State) : StepResult := classify (complete .transportError) (enterBody len) s

/-- Any other pair, the auto-push markers among them: TransportError (R60, R61, R63). -/
def execRxHdrOther (_b0 _b1 : Byte) (s : State) : StepResult :=
  classify (complete .transportError) (complete .transportError) s

end Sys2Proof.Machine
end

