-- ==== Sys2Proof/Machine/Requests.lean ====
section
/-! DEFINITION. The meanings of the request rows: what each does in the cycle it is presented. The rest of the exchange it
starts is the sequencer's (Sequencer.lean), by the operation latched in OP (R17). -/

namespace Sys2Proof.Machine

/-- READ_MEAS (R97): its frame is `68 01 04 93`; a query. -/
def execReadMeas (data : Byte) (s : State) : StepResult := presentRequest .readMeas data s

/-- START_MEAS (R98): command-only. -/
def execStartMeas (data : Byte) (s : State) : StepResult := presentRequest .startMeas data s

/-- STOP_MEAS (R99): command-only. -/
def execStopMeas (data : Byte) (s : State) : StepResult := presentRequest .stopMeas data s

/-- SET_COEF (R100): command-with-data; `data` is the coefficient sent. -/
def execSetCoef (data : Byte) (s : State) : StepResult := presentRequest .setCoef data s

/-- READ_COEF (R101): a query. -/
def execReadCoef (data : Byte) (s : State) : StepResult := presentRequest .readCoef data s

/-- EN_AUTOSEND (R102): command-only. -/
def execEnAutosend (data : Byte) (s : State) : StepResult := presentRequest .enAutosend data s

/-- STOP_AUTOSEND (R103): command-only. -/
def execStopAutosend (data : Byte) (s : State) : StepResult := presentRequest .stopAutosend data s

/-- The reserved request (R62, R130): refused, as R62 says. The sequencer runs it only where it fires, in IDLE (log 8). -/
def execReserved (_data : Byte) (_s : State) : StepResult := .refused .reservedRequest

/-- The request instruction of an operation. -/
def requestInstr (op : Op) (data : Byte) : Instr :=
  match op with
  | .readMeas => .readMeas data
  | .startMeas => .startMeas data
  | .stopMeas => .stopMeas data
  | .setCoef => .setCoef data
  | .readCoef => .readCoef data
  | .enAutosend => .enAutosend data
  | .stopAutosend => .stopAutosend data

end Sys2Proof.Machine
end

