-- ==== Sys2Proof/Machine/Dispatch.lean ====
section
/-! DEFINITION. One arm per instruction. -/

namespace Sys2Proof.Machine

def exec (i : Instr) (s : State) : Host.Outcome State Fault Refusal :=
  match i with
  | .readMeas data => Sys2Proof.Machine.execReadMeas data s
  | .startMeas data => Sys2Proof.Machine.execStartMeas data s
  | .stopMeas data => Sys2Proof.Machine.execStopMeas data s
  | .setCoef data => Sys2Proof.Machine.execSetCoef data s
  | .readCoef data => Sys2Proof.Machine.execReadCoef data s
  | .enAutosend data => Sys2Proof.Machine.execEnAutosend data s
  | .stopAutosend data => Sys2Proof.Machine.execStopAutosend data s
  | .reserved data => Sys2Proof.Machine.execReserved data s
  | .rxHdrAckAck => Sys2Proof.Machine.execRxHdrAckAck s
  | .rxHdrNackNack => Sys2Proof.Machine.execRxHdrNackNack s
  | .rxHdrResp len => Sys2Proof.Machine.execRxHdrResp len s
  | .rxHdrOther b0 b1 => Sys2Proof.Machine.execRxHdrOther b0 b1 s

end Sys2Proof.Machine
end

