-- ==== Sys2Proof/Machine/Sequencer.lean ====
section
/-! DEFINITION. PMRX's step function over its sampled input ports (R67, R68): one rule per sequencer state. A fired request and
a complete header pair are decoded and run as instructions; every other cycle is the rule's own. -/

namespace Sys2Proof.Machine

/-- State IDLE (R69): a fired request runs; a byte offered is dropped, and the error inputs are not read. -/
def idleRule (inp : PortIn) (s : State) : StepResult :=
  match inp.req with
  | some r => exec (decode (.request r.op r.data)) s
  | none => .next s

/-- State FLUSH (R72): an offered byte is dropped; the first cycle with none enters TX. `rx_err` is not read. -/
def flushRule (inp : PortIn) (s : State) : StepResult :=
  match inp.rx with
  | some _ => .next s
  | none => .next { s with st := .tx, idx := 0, tmr := 0 }

/-- The byte at IDX of the operation's frame is handed over (R73, R74): on to the next byte, or to RX_HDR after the last. -/
def byteSent (op : Op) (s : State) : State :=
  if s.idx.toNat + 1 = txLen op then { s with st := .rxHdr, idx := 0, acc := 0x00, tmr := 0 }
  else { s with idx := s.idx + 1, tmr := 0 }

/-- State TX (R73): `tx_err` beats `tx_ready`, which beats expiry; expiry is a TransportError (R83). -/
def txRule (inp : PortIn) (s : State) : StepResult :=
  if inp.txErr then .next (complete .transportError s)
  else if inp.txReady then whenIndexed s (whenOperation s fun op => .next (byteSent op s))
  else if s.deadlineDue then .next (complete .transportError s)
  else .next s.countWait

/-- A header byte (R76): the first is stored; the second is stored and the pair, with the first as BUF[0] held it at the start of
the cycle, runs as the instruction it decodes to (R77). -/
def headerByte (s : State) (b : Byte) : StepResult :=
  whenIndexed s
    (if s.idx = 0 then .next (s.storeReply b).nextIndex
     else exec (decode (.header (s.byteAt 0) b)) (s.storeReply b))

/-- A body byte (R79): `IDX == zext_9(L) + 2` is the checksum byte, which ends the reply. -/
def bodyByte (s : State) (b : Byte) : StepResult :=
  whenIndexed s
    (if s.idx = (s.byteAt 1).setWidth 9 + 2 then finish (s.acc + b) (s.storeReply b)
     else .next (s.storeReply b).nextIndex)

/-- PMRX's step at one rising edge of `clk` (R67, R68): reset overrides every rule (R120), otherwise ST selects exactly one. An
unused encoding of ST selects none (log 6). -/
def clockEdge (inp : PortIn) (s : State) : StepResult :=
  if inp.rst then .next (resetState s)
  else
    match s.st with
    | .idle => idleRule inp s
    | .flush => flushRule inp s
    | .tx => txRule inp s
    | .rxHdr => receiveWait inp s (headerByte s)
    | .rxBody => receiveWait inp s (bodyByte s)
    | .unused n => .fault (.noSequencerState n)

end Sys2Proof.Machine
end

