-- ==== Sys2Proof/Machine/Step.lean ====
section
/-! DEFINITION. One step of the whole machine is one clock edge: the environment moves, and PMRX steps on the ports that move
makes (R8, R67, R68). -/

namespace Sys2Proof.Machine

/-- One clock edge. -/
def step (s : State) : Host.Outcome State Fault Refusal :=
  clockEdge (portsIn s.edge s) s.afterEdge

/-- `s` with the opcode-table word `w` where the next step takes its instruction from: a request offered in IDLE, or the second
byte of a header pair offered in RX_HDR with the first stored (log 2). -/
def State.withFetchWord (s : State) (nbits w : Nat) : State :=
  placeBytes (tableFormat nbits) (tableBytes nbits w) s

end Sys2Proof.Machine
end

