-- ==== Sys2Proof/Machine/Exchange.lean ====
section
/-! DEFINITION. The transaction-level view of an exchange (R87 to R90), written over reply events and not over clock edges; and
the input sequences that play an exchange's phases, so that the two views can be compared. -/

namespace Sys2Proof.Machine

/-! ## Reply events and their outcome -/

/-- What the RX port presents for one awaited byte: a byte within its deadline, a late byte, or an error (R90). -/
inductive RxEvent where
  | byte (b : Byte)
  | late
  | err
  deriving DecidableEq, Repr

/-- The next `n` events as bytes, and the events after them; an error ends the reading with TransportError, a late byte with
Timeout (R90); `none` while events are missing. -/
def takeBytes : Nat → List RxEvent → Option (Except Result (List Byte) × List RxEvent)
  | 0, es => some (.ok [], es)
  | _ + 1, [] => none
  | _ + 1, .late :: es => some (.error .timeout, es)
  | _ + 1, .err :: es => some (.error .transportError, es)
  | n + 1, .byte b :: es =>
    match takeBytes n es with
    | some (.ok bs, rest) => some (.ok (b :: bs), rest)
    | some (.error k, rest) => some (.error k, rest)
    | none => none

/-- AckClass (R60, R90). -/
def ackClass (b0 b1 : Byte) : Result :=
  if b0 = 0xA5 ∧ b1 = 0xA5 then .ok
  else if b0 = 0x96 ∧ b1 = 0x96 then .deviceRejected
  else .transportError

/-- How an exchange ends: its kind, the payload length if a data frame's checksum passed, the decode's writes, and the events
it did not consume. -/
structure ExchangeEnd where
  kind : Result
  paylen : Option Byte
  writes : Writes
  rest : List RxEvent
  deriving DecidableEq, Repr

/-- The part of a query after a header `40 LEN` (R89, R90): the length check, the body, the checksum, the decode. -/
def bodyOutcome (cfg : Config) (op : Op) (b0 len : Byte) (es : List RxEvent) : Option ExchangeEnd :=
  if lengthFits cfg len = false then some ⟨.transportError, none, .none, es⟩
  else
    match takeBytes (len.toNat + 1) es with
    | none => none
    | some (.error k, rest) => some ⟨k, none, .none, rest⟩
    | some (.ok body, rest) =>
      if sum8 (b0 :: len :: body) ≠ 0x00 then some ⟨.checksumError, none, .none, rest⟩
      else
        match decodeReply cfg op (fun i => (b0 :: len :: body).getD i 0x00) with
        | some (k, w) => some ⟨k, some len, w, rest⟩
        | none => none

/-- The part of an exchange after its two header bytes (R87 to R90). -/
def headerOutcome (cfg : Config) (op : Op) (b0 b1 : Byte) (es : List RxEvent) : Option ExchangeEnd :=
  match kind op with
  | .ack => some ⟨ackClass b0 b1, none, .none, es⟩
  | .data =>
    if b0 = 0x40 then bodyOutcome cfg op b0 b1 es
    else some ⟨if b0 = 0x96 ∧ b1 = 0x96 then .deviceRejected else .transportError, none, .none, es⟩

/-- Outcome(OP, E) (R90); `none` while the events do not yet decide it. -/
def exchangeOutcome (cfg : Config) (op : Op) (es : List RxEvent) : Option ExchangeEnd :=
  match takeBytes 2 es with
  | some (.ok [b0, b1], rest) => headerOutcome cfg op b0 b1 rest
  | some (.ok _, _) => none
  | some (.error k, rest) => some ⟨k, none, .none, rest⟩
  | none => none

/-! ## Input sequences -/

/-- PMRX over a run of sampled inputs, one a clock edge, stopping at the first fault or refusal. -/
def runPorts : List PortIn → State → StepResult
  | [], s => .next s
  | p :: ps, s =>
    match clockEdge p s with
    | .next t => runPorts ps t
    | .fault f => .fault f
    | .refused r => .refused r

/-- The request of an operation fires at this edge, in IDLE (R69). -/
def Accepts (op : Op) (d : Byte) (p : PortIn) : Prop := p.rst = false ∧ p.req = some { op := op.bits, data := d }

/-- FLUSH from its first cycle to its last: an offered byte in each cycle, none in the last (R72). -/
def Flushes (ps : List PortIn) : Prop :=
  ∃ stale last, ps = stale ++ [last] ∧ (∀ p ∈ stale, p.rst = false ∧ p.rx.isSome = true) ∧
    last.rst = false ∧ last.rx = none

/-- A cycle of TX in which nothing happens on the port. -/
def TxStalls (p : PortIn) : Prop := p.rst = false ∧ p.txErr = false ∧ p.txReady = false

/-- One TX byte taken within its deadline of `T` cycles (R73, R82). -/
def TakenWithin (T : Nat) (ps : List PortIn) : Prop :=
  ∃ stalls last, ps = stalls ++ [last] ∧ stalls.length < T ∧ (∀ p ∈ stalls, TxStalls p) ∧
    last.rst = false ∧ last.txErr = false ∧ last.txReady = true

/-- A cycle of RX_HDR or RX_BODY in which nothing happens on the port. -/
def RxQuiet (p : PortIn) : Prop := p.rst = false ∧ p.rxErr = false ∧ p.rx = none

/-- The inputs play one reply event under a deadline of `T` cycles (R82, R90). -/
def Plays (T : Nat) : RxEvent → List PortIn → Prop
  | .byte b, ps => ∃ quiet last, ps = quiet ++ [last] ∧ quiet.length < T ∧ (∀ p ∈ quiet, RxQuiet p) ∧
      last.rst = false ∧ last.rxErr = false ∧ last.rx = some b
  | .late, ps => ps.length = T ∧ ∀ p ∈ ps, RxQuiet p
  | .err, ps => ∃ quiet last, ps = quiet ++ [last] ∧ quiet.length < T ∧ (∀ p ∈ quiet, RxQuiet p) ∧
      last.rst = false ∧ last.rxErr = true

/-- The inputs play a request of `op` with data `d`, its flush and its transmission, every byte in time (R87 to R89). -/
def PlaysRequest (T : Nat) (op : Op) (d : Byte) (ps : List PortIn) : Prop :=
  ∃ (a : PortIn) (fl : List PortIn) (tx : List (List PortIn)),
    ps = a :: (fl ++ tx.flatten) ∧ Accepts op d a ∧ Flushes fl ∧ tx.length = txLen op ∧
      ∀ w ∈ tx, TakenWithin T w

/-- The inputs play a reply, event by event. -/
def PlaysReply (T : Nat) (es : List RxEvent) (ps : List PortIn) : Prop :=
  ∃ pss : List (List PortIn), ps = pss.flatten ∧ List.Forall₂ (Plays T) es pss

/-- The most reply bytes an exchange can take: 2 for an ack-kind operation, BUF_CAP for a data-kind one (R84). -/
def maxReplyBytes (cfg : Config) (op : Op) : Nat :=
  match kind op with
  | .ack => 2
  | .data => cfg.cap

end Sys2Proof.Machine
end

