-- ==== Sys2Proof/Safety.lean ====
section
/-! DEFINITION. What holds of PMRX in every state a run from reset reaches (R19, R21, R23, R27, R34, R79, R81, R86), in the terms
the claims use; and what it is for the machine to stop. -/

namespace Sys2Proof.Machine

/-- The first `n` bytes of BUF. -/
def State.bytesTo (s : State) (n : Nat) : List Byte := (List.range n).map s.byteAt

/-- IDX is where the sequencer's state puts it (R19, R79): in TX within the frame, in RX_HDR at 0 or 1, in RX_BODY from 2 to
LEN + 2; in IDLE and FLUSH, where it is not read, it is 0 (R109, R120); ST is never an unused encoding (R16). -/
def IndexInPlace (s : State) : Prop :=
  match s.st with
  | .idle => s.idx = 0
  | .flush => s.idx = 0
  | .tx => ∀ op : Op, s.op = op.bits → s.idx.toNat < txLen op
  | .rxHdr => s.idx.toNat ≤ 1
  | .rxBody => 2 ≤ s.idx.toNat ∧ s.idx.toNat ≤ (s.byteAt 1).toNat + 2
  | .unused _ => False

/-- A body is read only for a data-kind operation, after `40 LEN` with LEN ≤ BUF_CAP − 3 (R77). -/
def BodyLegal (s : State) : Prop :=
  s.st = .rxBody → (∀ op : Op, s.op = op.bits → kind op = .data) ∧ s.byteAt 0 = 0x40 ∧ (s.byteAt 1).toNat + 3 ≤ s.cfg.cap

/-- The sequencer's invariant: BUF in canonical form and inside BUF_CAP, IDX in place, bodies legal, the deadline counter below
TIMEOUT_CYCLES (R82), DONE = 0 throughout an exchange (R23), OP never the reserved code (R62) and CODE at most 4 (R31, R58). -/
structure Inv (s : State) : Prop where
  bufCanonical : s.buf.wf = true
  bufWithin : s.buf.within s.cfg.cap = true
  index : IndexInPlace s
  body : BodyLegal s
  deadline : s.tmr.toNat < s.cfg.timeout
  doneClear : s.st ≠ .idle → s.done = false
  opLatched : s.op ≠ 0b111
  codeLegal : s.code.toNat ≤ 4

/-- ACC is the 8-bit sum of the reply bytes stored so far (R81). -/
def AccIsReplySum (s : State) : Prop :=
  s.st = .rxHdr ∨ s.st = .rxBody → s.acc = sum8 (s.bytesTo s.idx.toNat)

/-- Until its last byte is handed over, the request frame of the latched operation stands in BUF from index 0 (R36, R71). -/
def FrameStaged (s : State) : Prop :=
  s.st = .flush ∨ s.st = .tx → ∀ op : Op, s.op = op.bits → s.bytesTo (txLen op) = requestFrame s.cfg op s.data

/-- PM_VALID = 0 goes with PM1_0 and PM4_0 zeroed (R27). -/
def InvalidPairZero (s : State) : Prop := s.pmValid = false → s.pm1_0 = 0x0000 ∧ s.pm4_0 = 0x0000

/-- A request with the reserved code fires at this edge (R62). -/
def ReservedFires (inp : PortIn) (s : State) : Prop :=
  inp.rst = false ∧ s.st = .idle ∧ ∃ d, inp.req = some { op := 0b111, data := d }

/-- A completion happens at the edge from `s` to `t` (R109): an exchange was in progress and none is after it. -/
def Completes (s t : State) : Prop := s.st ≠ .idle ∧ t.st = .idle ∧ t.done = true

/-! ## Runs of the whole machine -/

/-- `n` clock edges of the whole machine, stopping at the first fault or refusal. -/
def runSteps : Nat → State → StepResult
  | 0, s => .next s
  | n + 1, s =>
    match step s with
    | .next t => runSteps n t
    | .fault f => .fault f
    | .refused r => .refused r

/-- Environment moves that keep FLUSH busy and then end it, over a transport that holds `held` at the first of them: at each
edge a byte is offered and leaves the transport, at the last none is, because the transport withholds it or holds none (R72). -/
def FlushEdges : List Byte → List Edge → Prop
  | _, [] => False
  | held, e :: es =>
    e.rst = false ∧
      match if e.rxOffer then held ++ e.arrivals else [] with
      | _ :: rest => FlushEdges rest es
      | [] => es = []

/-- Environment moves that take one TX byte within its deadline of `T` cycles (R73, R82). -/
def TakeEdges (T : Nat) (es : List Edge) : Prop :=
  ∃ stalls last, es = stalls ++ [last] ∧ stalls.length < T ∧
    (∀ e ∈ stalls, e.rst = false ∧ e.txErr = false ∧ e.txReady = false) ∧
    last.rst = false ∧ last.txErr = false ∧ last.txReady = true

end Sys2Proof.Machine
end

