-- ==== Sys2Proof/Certificates/Slice0/Obligations.lean ====
section
/-! DEFINITION. The statements about the model, for the provers. -/

open Sys2Proof Sys2Proof.Machine

/-! ## Encoding -/

/-- R50, R60, R61: request and header words written out from the tables decode to the instructions they stand for. That a
request's table word reads with `req_data` = 0x00, and the layout of the words, is the MODEL'S choice (log 5). -/
def Obligations.TableWordsDecodeToTheirInstructions : Prop :=
  decodeTableWord 8 0b000 = some (.readMeas 0x00) ∧
  decodeTableWord 8 0b001 = some (.startMeas 0x00) ∧
  decodeTableWord 8 0b011 = some (.setCoef 0x00) ∧
  decodeTableWord 8 0b111 = some (.reserved 0x00) ∧
  decodeTableWord 16 0xA5A5 = some .rxHdrAckAck ∧
  decodeTableWord 16 0x9696 = some .rxHdrNackNack ∧
  decodeTableWord 16 0x400D = some (.rxHdrResp 0x0D) ∧
  decodeTableWord 16 0x424D = some (.rxHdrOther 0x42 0x4D)

/-- Decoding what was encoded gives the instruction back: as a presented word, as bytes with anything after them, and as an
opcode-table word, for every operand value of every row. The layout of bytes and table words is the MODEL'S choice (log 5). -/
def Obligations.DecodeInvertsEncode : Prop :=
  ∀ i : Instr, i.wf = true →
    decode (encode i) = i ∧
    (∀ rest, decodeBytes (encodeBytes i).1 ((encodeBytes i).2 ++ rest) = .ok (i, rest)) ∧
    decodeTableWord (encodeTableWord i).1 (encodeTableWord i).2 = some i

/-- Every request and every header pair is exactly one well-formed instruction: encoding what was decoded gives the word back. -/
def Obligations.EncodeInvertsDecode : Prop :=
  ∀ p : Presented, (decode p).wf = true ∧ encode (decode p) = p

/-- R60, R61, R63: which header pairs are which row. -/
def Obligations.HeaderPairsFallInTheirRows : Prop :=
  ∀ b0 b1 : Byte,
    (decode (.header b0 b1) = .rxHdrAckAck ↔ b0 = 0xA5 ∧ b1 = 0xA5) ∧
    (decode (.header b0 b1) = .rxHdrNackNack ↔ b0 = 0x96 ∧ b1 = 0x96) ∧
    (∀ len, decode (.header b0 b1) = .rxHdrResp len ↔ b0 = 0x40 ∧ b1 = len) ∧
    (decode (.header b0 b1) = .rxHdrOther b0 b1 ↔
      ¬(b0 = 0xA5 ∧ b1 = 0xA5) ∧ ¬(b0 = 0x96 ∧ b1 = 0x96) ∧ b0 ≠ 0x40)

/-! ## Requests -/

/-- R70, R71: a request of each of the seven operations completes its acceptance in IDLE: OP and DATA latched, DONE cleared, the
frame staged, FLUSH entered, nothing else written. -/
def Obligations.RequestsAreAcceptedInIdle : Prop :=
  ∀ (d : Byte) (s : State), s.st = .idle →
    let accepted : Op → List Byte → State := fun op frame =>
      { s with op := op.bits, data := d, done := false, buf := s.buf.writeList 0 frame, st := .flush }
    exec (.readMeas d) s = .next (accepted .readMeas [0x68, 0x01, 0x04, 0x93]) ∧
    exec (.startMeas d) s = .next (accepted .startMeas
      [0x68, 0x01, s.cfg.cmdStartMeas, -(0x68 + 0x01 + s.cfg.cmdStartMeas)]) ∧
    exec (.stopMeas d) s = .next (accepted .stopMeas
      [0x68, 0x01, s.cfg.cmdStopMeas, -(0x68 + 0x01 + s.cfg.cmdStopMeas)]) ∧
    exec (.setCoef d) s = .next (accepted .setCoef
      [0x68, 0x02, s.cfg.cmdSetCoef, d, -(0x68 + 0x02 + s.cfg.cmdSetCoef + d)]) ∧
    exec (.readCoef d) s = .next (accepted .readCoef
      [0x68, 0x01, s.cfg.cmdReadCoef, -(0x68 + 0x01 + s.cfg.cmdReadCoef)]) ∧
    exec (.enAutosend d) s = .next (accepted .enAutosend
      [0x68, 0x01, s.cfg.cmdEnAutosend, -(0x68 + 0x01 + s.cfg.cmdEnAutosend)]) ∧
    exec (.stopAutosend d) s = .next (accepted .stopAutosend
      [0x68, 0x01, s.cfg.cmdStopAutosend, -(0x68 + 0x01 + s.cfg.cmdStopAutosend)])

/-- Frame of the seven requests (READ_MEAS, START_MEAS, STOP_MEAS, SET_COEF, READ_COEF, EN_AUTOSEND, STOP_AUTOSEND), in IDLE:
every byte of BUF at or beyond TxLen reads as before and each byte below it as the frame's; IDX, ACC, TMR, CODE, the result
registers, PAYLEN, the parameters and the transport are unchanged. -/
def Obligations.AcceptanceFrame : Prop :=
  ∀ (op : Op) (d : Byte) (s t : State), s.st = .idle → exec (requestInstr op d) s = .next t →
    (∀ k, txLen op ≤ k → t.byteAt k = s.byteAt k) ∧
    (∀ k, k < txLen op → (requestFrame s.cfg op d)[k]? = some (t.byteAt k)) ∧
    t.idx = s.idx ∧ t.acc = s.acc ∧ t.tmr = s.tmr ∧ t.code = s.code ∧
    t.pm1_0 = s.pm1_0 ∧ t.pm2_5 = s.pm2_5 ∧ t.pm4_0 = s.pm4_0 ∧ t.pm10 = s.pm10 ∧ t.pmValid = s.pmValid ∧
    t.coef = s.coef ∧ t.paylen = s.paylen ∧ t.cfg = s.cfg ∧ t.link = s.link ∧ t.script = s.script ∧ t.draws = s.draws

/-- R49, R69: outside IDLE a request does not transfer: it changes nothing (log 9 names the model's reading). -/
def Obligations.RequestOutsideIdleHasNoEffect : Prop :=
  ∀ (op : Op) (d : Byte) (s : State), s.st ≠ .idle → exec (requestInstr op d) s = .next s

/-- R44, R45: while an exchange is in progress, what the request port carries has no influence on the edge. -/
def Obligations.BusyBlockIgnoresTheRequestPort : Prop :=
  ∀ (p : PortIn) (r : Option Request) (s : State), s.st ≠ .idle → clockEdge { p with req := r } s = clockEdge p s

/-- R62: the reserved request is refused where `req_ready = 1`, and the block refuses at exactly the edges where it fires. -/
def Obligations.ReservedRequestIsRefused : Prop :=
  (∀ (d : Byte) (s : State), s.reqReady = true → exec (.reserved d) s = .refused .reservedRequest) ∧
  (∀ (p : PortIn) (s : State), ReservedFires p s ↔ clockEdge p s = .refused .reservedRequest)

/-! ## Headers -/

/-- R60: the header rows for an ack-kind operation, where a header is classified. -/
def Obligations.AckKindHeaderResults : Prop :=
  ∀ (s : State) (op : Op), s.st = .rxHdr → s.idx ≠ 0 → s.op = op.bits → kind op = .ack →
    exec .rxHdrAckAck s = .next (complete .ok s) ∧
    exec .rxHdrNackNack s = .next (complete .deviceRejected s) ∧
    (∀ len, exec (.rxHdrResp len) s = .next (complete .transportError s)) ∧
    (∀ b0 b1, exec (.rxHdrOther b0 b1) s = .next (complete .transportError s))

/-- R61: the header rows for a data-kind operation, where a header is classified; a data header whose length fits starts the
body at BUF[2], and one whose length does not ends the exchange before any body byte. -/
def Obligations.DataKindHeaderResults : Prop :=
  ∀ (s : State) (op : Op), s.st = .rxHdr → s.idx ≠ 0 → s.op = op.bits → kind op = .data →
    exec .rxHdrAckAck s = .next (complete .transportError s) ∧
    exec .rxHdrNackNack s = .next (complete .deviceRejected s) ∧
    (∀ len : Byte, len.toNat ≤ s.cfg.cap - 3 → exec (.rxHdrResp len) s = .next { s with st := .rxBody, idx := 2 }) ∧
    (∀ len : Byte, s.cfg.cap - 3 < len.toNat → exec (.rxHdrResp len) s = .next (complete .transportError s)) ∧
    (∀ b0 b1, exec (.rxHdrOther b0 b1) s = .next (complete .transportError s))

/-- The MODEL'S choice (log 9): where no header is being classified, a header pair changes nothing. -/
def Obligations.HeaderOutsideItsPlaceHasNoEffect : Prop :=
  ∀ s : State, s.st ≠ .rxHdr ∨ s.idx = 0 →
    exec .rxHdrAckAck s = .next s ∧ exec .rxHdrNackNack s = .next s ∧
    (∀ len, exec (.rxHdrResp len) s = .next s) ∧ (∀ b0 b1, exec (.rxHdrOther b0 b1) s = .next s)

/-- Frame of the four header rows, in every state: BUF, ACC, OP, DATA, the result registers, PAYLEN, the parameters and the
transport are unchanged. -/
def Obligations.HeaderFrame : Prop :=
  ∀ (i : Instr) (s t : State),
    (i = .rxHdrAckAck ∨ i = .rxHdrNackNack ∨ (∃ len, i = .rxHdrResp len) ∨ ∃ b0 b1, i = .rxHdrOther b0 b1) →
    exec i s = .next t →
    (∀ k, t.byteAt k = s.byteAt k) ∧ t.acc = s.acc ∧ t.op = s.op ∧ t.data = s.data ∧
    t.pm1_0 = s.pm1_0 ∧ t.pm2_5 = s.pm2_5 ∧ t.pm4_0 = s.pm4_0 ∧ t.pm10 = s.pm10 ∧ t.pmValid = s.pmValid ∧
    t.coef = s.coef ∧ t.paylen = s.paylen ∧ t.cfg = s.cfg ∧ t.link = s.link ∧ t.script = s.script ∧ t.draws = s.draws

/-- R109: what completion writes and leaves, and what the ports then show. -/
def Obligations.CompletionRecordsTheResult : Prop :=
  ∀ (k : Result) (s : State),
    complete k s = { s with code := k.bits, done := true, st := .idle, idx := 0, tmr := 0 } ∧
    (complete k s).reqReady = true ∧ (complete k s).busy = false ∧ (complete k s).status = 0b00001#5 ++ k.bits

/-! ## The machine's step -/

/-- A step runs the instruction it is handed: in IDLE the fired request, in RX_HDR the pair its second byte completes, stored
first. `afterEdge` moves the transport, the script and the draw counter only. -/
def Obligations.StepRunsTheDecodedInstruction : Prop :=
  ∀ s : State, s.edge.rst = false →
    (∀ r, s.st = .idle → s.edge.req = some r → step s = exec (decode (.request r.op r.data)) s.afterEdge) ∧
    (∀ b rest, s.st = .rxHdr → s.idx ≠ 0 → s.idx.toNat < s.cfg.cap → s.edge.rxErr = false → s.edge.rxOffer = true →
      heldAt s.edge s = b :: rest →
      step s = exec (decode (.header (s.byteAt 0) b))
        { s.afterEdge with buf := s.buf.write s.idx.toNat b, acc := s.acc + b, tmr := 0 } ∧
      s.afterEdge.link.held = rest)

/-- A word placed where the next step takes its instruction from is the instruction that step runs, on the state past that
edge, in IDLE for a request, and for a header in RX_HDR with its second byte stored at IDX 1. Where a word is placed, and that
a program comes from outside, is the MODEL'S reading (log 2), and the word's layout the MODEL'S choice (log 5). -/
def Obligations.PlacedWordIsTheNextInstruction : Prop :=
  ∀ (s : State) (nbits w : Nat), ∃ i, decodeTableWord nbits w = some i ∧
    ∀ v, v = (s.withFetchWord nbits w).afterEdge →
      (tableFormat nbits = .req → v.st = .idle ∧ step (s.withFetchWord nbits w) = exec i v) ∧
      (tableFormat nbits = .rxHeader → v.st = .rxHdr ∧ v.idx = 1 ∧
        step (s.withFetchWord nbits w) = exec i
          { v with buf := v.buf.write 1 (BitVec.ofNat 8 w), acc := v.acc + BitVec.ofNat 8 w, tmr := 0 })

/-- R120: a reset edge, from every state and whatever the other inputs: the reset values, BUF as it was, no request accepted;
an RX byte offered transfers and is lost if `rx_ready` = 1, and a TX byte taken is handed to the transport. -/
def Obligations.ResetEdge : Prop :=
  ∀ s : State, s.edge.rst = true → ∃ t, step s = .next t ∧
    t.st = .idle ∧ t.op = 0 ∧ t.data = 0x00 ∧ t.idx = 0 ∧ t.acc = 0x00 ∧ t.tmr = 0 ∧ t.code = 0 ∧ t.done = false ∧
    t.pm1_0 = 0x0000 ∧ t.pm2_5 = 0x0000 ∧ t.pm4_0 = 0x0000 ∧ t.pm10 = 0x0000 ∧ t.pmValid = false ∧
    t.coef = 0x00 ∧ t.paylen = 0x00 ∧ (∀ i, t.byteAt i = s.byteAt i) ∧
    (∀ b rest, s.edge.rxOffer = true → heldAt s.edge s = b :: rest → s.rxReady = true → t.link.held = rest) ∧
    (s.st = .tx → s.edge.txReady = true → t.link.sent = s.link.sent ++ [s.byteAt s.idx.toNat])

/-- R122: after power-up every element is a draw, and any encoding of ST is one it can hold; one edge with `rst` = 1, whatever the
other inputs, leaves ResetState with BUF as it was, and that state meets every invariant. That the draws are `Config.powerUp`'s
and that a power-up BUF lists nothing is the MODEL'S form (log 4, log 16). -/
def Obligations.ResetAfterPowerUp : Prop :=
  (∀ b : BitVec 3, (SeqState.ofBits b).bits = b) ∧
  ∀ (cfg : Config) (link : Transport) (script : List Edge) (s : State), s = State.powerUp cfg link script →
    s.st.bits = (Config.powerUp 0).setWidth 3 ∧ s.op = (Config.powerUp 1).setWidth 3 ∧
    s.data = (Config.powerUp 2).setWidth 8 ∧ s.idx = (Config.powerUp 3).setWidth 9 ∧
    s.acc = (Config.powerUp 4).setWidth 8 ∧ s.tmr = Config.powerUp 5 ∧ s.code = (Config.powerUp 6).setWidth 3 ∧
    s.done = (Config.powerUp 7).getLsbD 0 ∧
    s.pm1_0 = (Config.powerUp 8).setWidth 16 ∧ s.pm2_5 = (Config.powerUp 9).setWidth 16 ∧
    s.pm4_0 = (Config.powerUp 10).setWidth 16 ∧ s.pm10 = (Config.powerUp 11).setWidth 16 ∧
    s.pmValid = (Config.powerUp 12).getLsbD 0 ∧ s.coef = (Config.powerUp 13).setWidth 8 ∧
    s.paylen = (Config.powerUp 14).setWidth 8 ∧ (∀ i, s.byteAt i = Config.bufPowerUp i) ∧
    (s.edge.rst = true → ∃ t, step s = .next t ∧
      t.st = .idle ∧ t.op = 0 ∧ t.data = 0x00 ∧ t.idx = 0 ∧ t.acc = 0x00 ∧ t.tmr = 0 ∧ t.code = 0 ∧ t.done = false ∧
      t.pm1_0 = 0x0000 ∧ t.pm2_5 = 0x0000 ∧ t.pm4_0 = 0x0000 ∧ t.pm10 = 0x0000 ∧ t.pmValid = false ∧
      t.coef = 0x00 ∧ t.paylen = 0x00 ∧ (∀ i, t.byteAt i = Config.bufPowerUp i) ∧ t.cfg = cfg ∧
      Inv t ∧ AccIsReplySum t ∧ FrameStaged t ∧ InvalidPairZero t)

/-- The MODEL'S choice (log 6, log 7): where a power-up before the first reset left an unused encoding in ST or the reserved code
in OP, an edge without reset stops the block where the spec gives no rule, no frame length and no reply kind. -/
def Obligations.UnusedEncodingsStopTheBlock : Prop :=
  (∀ (p : PortIn) (s : State) (n : Fin 3), p.rst = false → s.st = .unused n →
    clockEdge p s = .fault (.noSequencerState n)) ∧
  (∀ (p : PortIn) (s : State), p.rst = false → s.op = 0b111 → s.idx.toNat < s.cfg.cap →
    (s.st = .tx → p.txErr = false → p.txReady = true → clockEdge p s = .fault .noOperation) ∧
    (∀ b, s.st = .rxHdr → s.idx ≠ 0 → p.rxErr = false → p.rx = some b → clockEdge p s = .fault .noOperation) ∧
    (∀ b, s.st = .rxBody → s.idx = (s.byteAt 1).setWidth 9 + 2 → s.acc + b = 0x00 → p.rxErr = false → p.rx = some b →
      clockEdge p s = .fault .noOperation))

/-- R69: the IDLE rule, over every input without reset. -/
def Obligations.IdleRule : Prop :=
  ∀ (p : PortIn) (s : State), p.rst = false → s.st = .idle →
    s.reqReady = true ∧ s.rxReady = true ∧
    (p.req = none → clockEdge p s = .next s) ∧
    (∀ op d, p.req = some { op := op.bits, data := d } → clockEdge p s = .next (accept op d s)) ∧
    (∀ d, p.req = some { op := 0b111, data := d } → clockEdge p s = .refused .reservedRequest)

/-- R72: the FLUSH rule: an offered byte is dropped, the first cycle without one enters TX; `rx_err` is not read. -/
def Obligations.FlushRule : Prop :=
  ∀ (p : PortIn) (s : State), p.rst = false → s.st = .flush →
    s.rxReady = true ∧ s.txValid = false ∧
    (∀ b, p.rx = some b → clockEdge p s = .next s) ∧
    (p.rx = none → clockEdge p s = .next { s with st := .tx, idx := 0, tmr := 0 })

/-- R128: FLUSH never ends under a stream of bytes without a break, however long. -/
def Obligations.FlushMayNeverEnd : Prop :=
  ∀ (ps : List PortIn) (s : State), s.st = .flush → (∀ p ∈ ps, p.rst = false ∧ p.rx.isSome = true) →
    runPorts ps s = .next s

/-- R73: the TX rule, with its priorities; a byte is handed over with IDX within the frame of the operation in OP. -/
def Obligations.TransmitRule : Prop :=
  ∀ (p : PortIn) (s : State), p.rst = false → s.st = .tx →
    s.txValid = true ∧ s.txData = s.byteAt s.idx.toNat ∧ s.rxReady = false ∧
    (p.txErr = true → clockEdge p s = .next (complete .transportError s)) ∧
    (∀ op : Op, s.op = op.bits → s.idx.toNat < txLen op → p.txErr = false → p.txReady = true →
      (s.idx.toNat = txLen op - 1 → clockEdge p s = .next { s with st := .rxHdr, idx := 0, acc := 0x00, tmr := 0 }) ∧
      (s.idx.toNat ≠ txLen op - 1 → clockEdge p s = .next { s with idx := s.idx + 1, tmr := 0 })) ∧
    (p.txErr = false → p.txReady = false → s.tmr.toNat = s.cfg.timeout - 1 →
      clockEdge p s = .next (complete .transportError s)) ∧
    (p.txErr = false → p.txReady = false → s.tmr.toNat ≠ s.cfg.timeout - 1 →
      clockEdge p s = .next { s with tmr := s.tmr + 1 })

/-- R75, R78: the error and deadline part of RX_HDR and RX_BODY: an error input ends the exchange whatever byte is offered with
it and however late; without a byte the deadline decides. -/
def Obligations.ReceiveErrorAndDeadline : Prop :=
  ∀ (p : PortIn) (s : State), p.rst = false → s.st = .rxHdr ∨ s.st = .rxBody →
    s.rxReady = true ∧
    (p.rxErr = true → clockEdge p s = .next (complete .transportError s)) ∧
    (p.rxErr = false → p.rx = none → s.tmr.toNat = s.cfg.timeout - 1 → clockEdge p s = .next (complete .timeout s)) ∧
    (p.rxErr = false → p.rx = none → s.tmr.toNat ≠ s.cfg.timeout - 1 → clockEdge p s = .next { s with tmr := s.tmr + 1 })

/-- R76, R77: the two header bytes. The first is stored at BUF[0]; the second at BUF[1], and the pair is classified in the same
cycle by the kind of OP. -/
def Obligations.HeaderBytes : Prop :=
  ∀ (p : PortIn) (s : State) (b : Byte), p.rst = false → s.st = .rxHdr → p.rxErr = false → p.rx = some b →
    (s.idx = 0 → clockEdge p s = .next { s with buf := s.buf.write 0 b, acc := s.acc + b, tmr := 0, idx := 1 }) ∧
    (s.idx = 1 → ∀ op : Op, s.op = op.bits → ∀ u, u = { s with buf := s.buf.write 1 b, acc := s.acc + b, tmr := 0 } →
      (kind op = .ack → s.byteAt 0 = 0xA5 ∧ b = 0xA5 → clockEdge p s = .next (complete .ok u)) ∧
      (kind op = .ack → s.byteAt 0 = 0x96 ∧ b = 0x96 → clockEdge p s = .next (complete .deviceRejected u)) ∧
      (kind op = .ack → ¬(s.byteAt 0 = 0xA5 ∧ b = 0xA5) → ¬(s.byteAt 0 = 0x96 ∧ b = 0x96) →
        clockEdge p s = .next (complete .transportError u)) ∧
      (kind op = .data → s.byteAt 0 = 0x40 → b.toNat > s.cfg.cap - 3 →
        clockEdge p s = .next (complete .transportError u)) ∧
      (kind op = .data → s.byteAt 0 = 0x40 → b.toNat ≤ s.cfg.cap - 3 →
        clockEdge p s = .next { u with st := .rxBody, idx := 2 }) ∧
      (kind op = .data → s.byteAt 0 = 0x96 ∧ b = 0x96 → clockEdge p s = .next (complete .deviceRejected u)) ∧
      (kind op = .data → s.byteAt 0 ≠ 0x40 → ¬(s.byteAt 0 = 0x96 ∧ b = 0x96) →
        clockEdge p s = .next (complete .transportError u)))

/-- R79, R80: the body bytes. Each is stored at IDX and added into ACC; the one at LEN + 2 is the checksum byte: a sum that is
not 0 is a ChecksumError whatever LEN and the echo are, and a sum of 0 writes PAYLEN before the decode decides. -/
def Obligations.BodyBytes : Prop :=
  ∀ (p : PortIn) (s : State) (b : Byte), Inv s → p.rst = false → s.st = .rxBody → p.rxErr = false → p.rx = some b →
    ∀ u, u = { s with buf := s.buf.write s.idx.toNat b, acc := s.acc + b, tmr := 0 } →
      (s.idx.toNat < (s.byteAt 1).toNat + 2 → clockEdge p s = .next { u with idx := s.idx + 1 }) ∧
      (s.idx.toNat = (s.byteAt 1).toNat + 2 → s.acc + b ≠ 0x00 → clockEdge p s = .next (complete .checksumError u)) ∧
      (s.idx.toNat = (s.byteAt 1).toNat + 2 → s.acc + b = 0x00 → ∃ op k w, s.op = op.bits ∧
        decodeReply s.cfg op u.byteAt = some (k, w) ∧ (k = .ok ∨ k = .transportError ∧ w = .none) ∧
        clockEdge p s = .next (complete k (applyWrites w { u with paylen := s.byteAt 1 })))

/-- R93: the measurement decode in the cycle the checksum byte of a good reply arrives: the compact shape, the standard shape,
and everything else. `x ++ y` is the 16-bit value with `x` as its high byte. -/
def Obligations.MeasurementDecode : Prop :=
  ∀ (p : PortIn) (s : State) (b : Byte), Inv s → p.rst = false → s.st = .rxBody → p.rxErr = false → p.rx = some b →
    s.op = Op.readMeas.bits → s.idx.toNat = (s.byteAt 1).toNat + 2 → s.acc + b = 0x00 →
    ∃ t, clockEdge p s = .next t ∧ t.st = .idle ∧ t.done = true ∧ t.paylen = s.byteAt 1 ∧ t.coef = s.coef ∧
      (s.byteAt 1 = 13 → s.byteAt 2 = 0x04 →
        t.code = Result.ok.bits ∧ t.pm1_0 = s.byteAt 3 ++ s.byteAt 4 ∧ t.pm2_5 = s.byteAt 5 ++ s.byteAt 6 ∧
        t.pm4_0 = s.byteAt 7 ++ s.byteAt 8 ∧ t.pm10 = s.byteAt 9 ++ s.byteAt 10 ∧ t.pmValid = true) ∧
      (s.byteAt 1 = 5 → s.byteAt 2 = 0x04 →
        t.code = Result.ok.bits ∧ t.pm1_0 = 0x0000 ∧ t.pm2_5 = s.byteAt 3 ++ s.byteAt 4 ∧
        t.pm4_0 = 0x0000 ∧ t.pm10 = s.byteAt 5 ++ s.byteAt 6 ∧ t.pmValid = false) ∧
      (s.byteAt 1 ≠ 13 ∧ s.byteAt 1 ≠ 5 ∨ s.byteAt 2 ≠ 0x04 →
        t.code = Result.transportError.bits ∧ t.pm1_0 = s.pm1_0 ∧ t.pm2_5 = s.pm2_5 ∧ t.pm4_0 = s.pm4_0 ∧ t.pm10 = s.pm10 ∧
        t.pmValid = s.pmValid)

/-- R94: the coefficient decode in the cycle the checksum byte of a good reply arrives. -/
def Obligations.CoefficientDecode : Prop :=
  ∀ (p : PortIn) (s : State) (b : Byte), Inv s → p.rst = false → s.st = .rxBody → p.rxErr = false → p.rx = some b →
    s.op = Op.readCoef.bits → s.idx.toNat = (s.byteAt 1).toNat + 2 → s.acc + b = 0x00 →
    ∃ t, clockEdge p s = .next t ∧ t.st = .idle ∧ t.done = true ∧ t.paylen = s.byteAt 1 ∧
      t.pm1_0 = s.pm1_0 ∧ t.pm2_5 = s.pm2_5 ∧ t.pm4_0 = s.pm4_0 ∧ t.pm10 = s.pm10 ∧ t.pmValid = s.pmValid ∧
      (s.byteAt 1 = 2 → s.byteAt 2 = s.cfg.cmdReadCoef → t.code = Result.ok.bits ∧ t.coef = s.byteAt 3) ∧
      (s.byteAt 1 ≠ 2 ∨ s.byteAt 2 ≠ s.cfg.cmdReadCoef → t.code = Result.transportError.bits ∧ t.coef = s.coef)

/-- R82, R83: a wait that nothing ends counts its cycles in TMR and expires in its TIMEOUT_CYCLES-th cycle: with Timeout in
RX_HDR and RX_BODY, with TransportError in TX. -/
def Obligations.WaitExpiresAfterTimeoutCycles : Prop :=
  ∀ (ps : List PortIn) (s : State), s.tmr = 0 →
    (s.st = .rxHdr ∨ s.st = .rxBody → (∀ p ∈ ps, RxQuiet p) →
      (ps.length < s.cfg.timeout → runPorts ps s = .next { s with tmr := BitVec.ofNat 32 ps.length }) ∧
      (ps.length = s.cfg.timeout → runPorts ps s = .next (complete .timeout s))) ∧
    (s.st = .tx → (∀ p ∈ ps, TxStalls p) →
      (ps.length < s.cfg.timeout → runPorts ps s = .next { s with tmr := BitVec.ofNat 32 ps.length }) ∧
      (ps.length = s.cfg.timeout → runPorts ps s = .next (complete .transportError s)))

/-! ## Invariants -/

/-- The state after reset meets every invariant stated here. -/
def Obligations.ResetMeetsTheInvariants : Prop :=
  Inv State.reset ∧ AccIsReplySum State.reset ∧ FrameStaged State.reset ∧ InvalidPairZero State.reset

/-- Every step keeps the sequencer's invariant (R19, R21, R23, R34, R79, R86). -/
def Obligations.StepKeepsInv : Prop :=
  ∀ s t : State, Inv s → step s = .next t → Inv t

/-- Every step keeps ACC the 8-bit sum of the reply bytes stored so far (R81). -/
def Obligations.StepKeepsReplySum : Prop :=
  ∀ s t : State, Inv s → AccIsReplySum s → step s = .next t → AccIsReplySum t

/-- Every step keeps the latched operation's request frame standing in BUF until it is sent (R36, R71). -/
def Obligations.StepKeepsFrameStaged : Prop :=
  ∀ s t : State, FrameStaged s → step s = .next t → FrameStaged t

/-- Every step keeps PM1_0 and PM4_0 zero while PM_VALID = 0 (R27). -/
def Obligations.StepKeepsInvalidPairZero : Prop :=
  ∀ s t : State, InvalidPairZero s → step s = .next t → InvalidPairZero t

/-- R68: in the states of the invariant PMRX's step is total but for the reserved request: no fault is ever met. -/
def Obligations.StepIsTotalButForTheReservedRequest : Prop :=
  ∀ (p : PortIn) (s : State), Inv s →
    (∃ t, clockEdge p s = .next t) ∨ (ReservedFires p s ∧ clockEdge p s = .refused .reservedRequest)

/-! ## Whole-machine rules -/

/-- R26, R27, R28, R29: at an edge without reset, the concentrations and PM_VALID change only by an Ok completion of READ_MEAS,
COEF only by an Ok completion of READ_COEF, and PAYLEN only by a completion of a query out of RX_BODY. -/
def Obligations.ResultsChangeOnlyByTheirCompletion : Prop :=
  ∀ (p : PortIn) (s t : State), p.rst = false → clockEdge p s = .next t →
    ((t.pm1_0, t.pm2_5, t.pm4_0, t.pm10, t.pmValid) ≠ (s.pm1_0, s.pm2_5, s.pm4_0, s.pm10, s.pmValid) →
      s.op = Op.readMeas.bits ∧ s.st = .rxBody ∧ Completes s t ∧ t.code = Result.ok.bits) ∧
    (t.coef ≠ s.coef → s.op = Op.readCoef.bits ∧ s.st = .rxBody ∧ Completes s t ∧ t.code = Result.ok.bits) ∧
    (t.paylen ≠ s.paylen → (∃ op : Op, s.op = op.bits ∧ kind op = .data) ∧ s.st = .rxBody ∧ Completes s t ∧
      t.code ≠ Result.checksumError.bits)

/-- R17, R23, R25: at an edge without reset, CODE changes only at a completion; DONE is set only there and cleared only at an
acceptance; OP and DATA change only at an acceptance. -/
def Obligations.StatusAndLatchesChangeOnlyAtTheirEvents : Prop :=
  ∀ (p : PortIn) (s t : State), p.rst = false → clockEdge p s = .next t →
    (t.code ≠ s.code → Completes s t) ∧
    (t.done = true → s.done = false → Completes s t) ∧
    (t.done = false → s.done = true → s.st = .idle ∧ t.st = .flush) ∧
    (t.op ≠ s.op ∨ t.data ≠ s.data → s.st = .idle ∧ t.st = .flush ∧ p.req = some { op := t.op, data := t.data })

/-- R35: BUF is written by the frame builder at an acceptance, below TxLen, and by the receiver, at IDX, with the byte that
transfers; by nothing else. -/
def Obligations.OnlyBuilderAndReceiverWriteTheBuffer : Prop :=
  ∀ (p : PortIn) (s t : State) (i : Nat), clockEdge p s = .next t → t.byteAt i ≠ s.byteAt i →
    (s.st = .idle ∧ t.st = .flush ∧ ∃ op : Op, t.op = op.bits ∧ i < txLen op) ∨
    ((s.st = .rxHdr ∨ s.st = .rxBody) ∧ i = s.idx.toNat ∧ p.rx = some (t.byteAt i))

/-- R16, R109, R110: the sequencer's path: which ST follows which at an edge without reset, and that an exchange ends only by a
completion, which sets DONE and clears IDX and TMR. -/
def Obligations.SequencerFollowsItsPath : Prop :=
  ∀ (p : PortIn) (s t : State), p.rst = false → clockEdge p s = .next t →
    (s.st = .idle → t.st = .idle ∨ t.st = .flush) ∧
    (s.st = .flush → t.st = .flush ∨ t.st = .tx) ∧
    (s.st = .tx → t.st = .tx ∨ t.st = .rxHdr ∨ t.st = .idle) ∧
    (s.st = .rxHdr → t.st = .rxHdr ∨ t.st = .rxBody ∨ t.st = .idle) ∧
    (s.st = .rxBody → t.st = .rxBody ∨ t.st = .idle) ∧
    (s.st ≠ .idle → t.st = .idle → t.done = true ∧ t.idx = 0 ∧ t.tmr = 0)

/-- R15: no step writes the parameters. -/
def Obligations.StepNeverWritesTheParameters : Prop :=
  ∀ s t : State, step s = .next t → t.cfg = s.cfg

/-- R33: PMRX learns of the transport, of the script and of the draws through its ports alone: an edge on the same ports does
the same whatever they hold, and leaves them alone. -/
def Obligations.BlockSeesOnlyItsPorts : Prop :=
  ∀ (p : PortIn) (s : State) (l : Transport) (es : List Edge) (n : Nat),
    clockEdge p { s with link := l, script := es, draws := n } =
      match clockEdge p s with
      | .next t => .next { t with link := l, script := es, draws := n }
      | .fault f => .fault f
      | .refused r => .refused r

/-- R41, R116: what the transport holds and was handed after a step: arrivals queue behind the held bytes; the oldest leaves
exactly when there is one, it is offered and `rx_ready` = 1; a byte taken on TX is `BUF[IDX]`, appended in order. The clauses on
`link.sent` cover edges with `tx_err` = 1 too, where the spec says only what PMRX counts: that the transport then has the byte
is the MODEL'S choice (log 10, unsafe there). -/
def Obligations.TransportKeepsByteOrder : Prop :=
  ∀ s t : State, step s = .next t →
    (s.rxReady = false ∨ s.edge.rxOffer = false → t.link.held = s.link.held ++ s.edge.arrivals) ∧
    (s.edge.rxOffer = true → s.link.held ++ s.edge.arrivals = [] → t.link.held = []) ∧
    (∀ b rest, s.rxReady = true → s.edge.rxOffer = true → s.link.held ++ s.edge.arrivals = b :: rest → t.link.held = rest) ∧
    (s.st = .tx → s.edge.txReady = true → t.link.sent = s.link.sent ++ [s.byteAt s.idx.toNat]) ∧
    (s.st ≠ .tx ∨ s.edge.txReady = false → t.link.sent = s.link.sent)

/-! ## Ports and arithmetic -/

/-- R48: the handshake outputs, as functions of the sequencer's state and of BUF. -/
def Obligations.HandshakePortsFollowTheSequencer : Prop :=
  ∀ (a : Index) (s : State),
    ((portsOut a s).reqReady = true ↔ s.st = .idle) ∧
    ((portsOut a s).txValid = true ↔ s.st = .tx) ∧
    (s.st = .tx → (portsOut a s).txData = s.byteAt s.idx.toNat) ∧
    (s.st ≠ .tx → (portsOut a s).txData = 0x00) ∧
    ((portsOut a s).rxReady = true ↔ s.st = .idle ∨ s.st = .flush ∨ s.st = .rxHdr ∨ s.st = .rxBody) ∧
    ((portsOut a s).busy = true ↔ s.st ≠ .idle) ∧ (portsOut a s).done = s.done

/-- R22: the fields of STATUS, and its value after reset. -/
def Obligations.StatusWordPacks : Prop :=
  State.reset.status = 0x00 ∧ ∀ s : State, s.status.extractLsb' 0 3 = s.code ∧ s.status.getLsbD 3 = s.done ∧
    (s.status.getLsbD 4 = true ↔ s.st ≠ .idle) ∧ s.status.extractLsb' 5 3 = 0

/-- R46: the buffer read port. -/
def Obligations.BufferReadPort : Prop :=
  ∀ (a : Index) (s : State),
    (a.toNat < s.cfg.cap → (portsOut a s).bufRdata = s.byteAt a.toNat) ∧
    (s.cfg.cap ≤ a.toNat → (portsOut a s).bufRdata = 0x00)

/-- R31: the numbered visible registers show the register ports, and there is none above 7. That each is shown zero-extended to
16 bits is the MODEL'S form (log 12). -/
def Obligations.VisibleRegistersShowTheState : Prop :=
  ∀ s : State,
    s.visibleReg 0 = some (s.status.setWidth 16) ∧ s.visibleReg 1 = some s.pm1_0 ∧ s.visibleReg 2 = some s.pm2_5 ∧
    s.visibleReg 3 = some s.pm4_0 ∧ s.visibleReg 4 = some s.pm10 ∧
    s.visibleReg 5 = some (if s.pmValid then 1 else 0) ∧ s.visibleReg 6 = some (s.coef.setWidth 16) ∧
    s.visibleReg 7 = some (s.paylen.setWidth 16) ∧ ∀ n, 7 < n → s.visibleReg n = none

/-- R91: u16 is exactly `hi · 256 + lo`, unsigned. -/
def Obligations.WordAssemblyIsBigEndian : Prop :=
  ∀ hi lo : Byte, (u16 hi lo).toNat = hi.toNat * 256 + lo.toNat

/-- R85: the checksum laws (a) to (d). -/
def Obligations.ChecksumLaws : Prop :=
  (∀ bs : List Byte, sum8 (bs ++ [chk8 bs]) = 0x00) ∧
  (∀ (bs : List Byte) (i : Nat) (h : i < bs.length) (y : Byte), sum8 bs = 0x00 → y ≠ bs[i] →
    sum8 (bs.set i y) = y - bs[i] ∧ sum8 (bs.set i y) ≠ 0x00) ∧
  (∀ bs cs : List Byte, bs.length = cs.length → sum8 (List.zipWith (· - ·) cs bs) = 0x00 → sum8 cs = sum8 bs) ∧
  (∀ bs cs : List Byte, bs.Perm cs → sum8 bs = sum8 cs) ∧
  (∀ (bs : List Byte) (c : Byte), sum8 (bs ++ [c]) = 0x00 ↔ c = -sum8 bs)

/-- R86: the index and length arithmetic never wraps: LEN + 1 and LEN + 2 on 9 bits, BUF_CAP − 3, and IDX + 1 wherever IDX is
used as an index. -/
def Obligations.IndexArithmeticNeverWraps : Prop :=
  ∀ s : State, Inv s →
    (∀ len : Byte, (len.setWidth 9 + 1).toNat = len.toNat + 1 ∧ (len.setWidth 9 + 2).toNat = len.toNat + 2) ∧
    13 ≤ s.cfg.cap - 3 ∧ s.cfg.cap - 3 ≤ 253 ∧
    (s.st = .tx ∨ s.st = .rxHdr ∨ s.st = .rxBody → (s.idx + 1).toNat = s.idx.toNat + 1 ∧ s.idx.toNat + 1 ≤ s.cfg.cap)

/-! ## Exchanges -/

/-- R90: the transaction-level view is what the clock edges do. From IDLE, with a request of any operation accepted, any flush,
every TX byte taken in time, and a reply whose events decide the outcome, the run ends in IDLE with that outcome in CODE,
PAYLEN written exactly if the checksum passed, and the decode's writes on the result registers and nothing else there. Events
after the outcome is decided (`e.rest`) are not consumed: the exchange is over before they are presented. -/
def Obligations.ExchangeFollowsTheTransactionView : Prop :=
  ∀ (s : State) (op : Op) (d : Byte) (consumed : List RxEvent) (e : ExchangeEnd) (request reply : List PortIn),
    s.st = .idle → exchangeOutcome s.cfg op (consumed ++ e.rest) = some e →
    PlaysRequest s.cfg.timeout op d request → PlaysReply s.cfg.timeout consumed reply →
    ∃ t, runPorts (request ++ reply) s = .next t ∧
      t.st = .idle ∧ t.done = true ∧ t.code = e.kind.bits ∧ t.op = op.bits ∧ t.data = d ∧ t.cfg = s.cfg ∧
      t.paylen = e.paylen.getD s.paylen ∧
      t.pm1_0 = (applyWrites e.writes s).pm1_0 ∧ t.pm2_5 = (applyWrites e.writes s).pm2_5 ∧
      t.pm4_0 = (applyWrites e.writes s).pm4_0 ∧ t.pm10 = (applyWrites e.writes s).pm10 ∧
      t.pmValid = (applyWrites e.writes s).pmValid ∧ t.coef = (applyWrites e.writes s).coef

/-- R84: the bound on an exchange's length. After the acceptance cycle and the FLUSH cycles, whatever the inputs without reset,
the exchange has completed within TxLen × TIMEOUT_CYCLES + n_rx × TIMEOUT_CYCLES further cycles. -/
def Obligations.ExchangeEndsWithinItsBound : Prop :=
  ∀ (s : State) (op : Op) (d : Byte) (a : PortIn) (flushing ps : List PortIn),
    Inv s → s.st = .idle → Accepts op d a → Flushes flushing → (∀ p ∈ ps, p.rst = false) →
    ps.length = txLen op * s.cfg.timeout + maxReplyBytes s.cfg op * s.cfg.timeout →
    ∃ n t, n ≤ ps.length ∧ runPorts (a :: (flushing ++ ps.take n)) s = .next t ∧ t.st = .idle ∧ t.done = true

/-- R36, R42, R52, R53: the whole machine hands the transport exactly the request frame, in index order, and only then listens:
from IDLE, along any script that fires a request of any operation, keeps FLUSH busy as long as it likes (with stale bytes the
transport held or with arriving ones) and takes every TX byte in time. -/
def Obligations.RequestFrameCrossesTheWire : Prop :=
  ∀ (s : State) (op : Op) (d : Byte) (a : Edge) (flushing : List Edge) (tx : List (List Edge)) (rest : List Edge),
    s.st = .idle → s.script = a :: (flushing ++ (tx.flatten ++ rest)) →
    a.rst = false → a.req = some { op := op.bits, data := d } → FlushEdges (linkAfter a s).held flushing →
    tx.length = txLen op → (∀ w ∈ tx, TakeEdges s.cfg.timeout w) →
    ∃ t, runSteps (1 + flushing.length + tx.flatten.length) s = .next t ∧
      t.link.sent = s.link.sent ++ requestFrame s.cfg op d ∧ t.script = rest ∧
      t.st = .rxHdr ∧ t.idx = 0 ∧ t.acc = 0x00 ∧ t.tmr = 0
end

