-- ==== Sys2Proof/Laws/State.lean ====
section
/-! SUPPORT. One lemma for each field of each update of the state, so that no proof unfolds a record update. -/

namespace Sys2Proof.Machine

/-! ## Completion -/

@[simp] theorem complete_st (k : Result) (s : State) : (complete k s).st = .idle := rfl
@[simp] theorem complete_op (k : Result) (s : State) : (complete k s).op = s.op := rfl
@[simp] theorem complete_data (k : Result) (s : State) : (complete k s).data = s.data := rfl
@[simp] theorem complete_buf (k : Result) (s : State) : (complete k s).buf = s.buf := rfl
@[simp] theorem complete_idx (k : Result) (s : State) : (complete k s).idx = 0 := rfl
@[simp] theorem complete_acc (k : Result) (s : State) : (complete k s).acc = s.acc := rfl
@[simp] theorem complete_tmr (k : Result) (s : State) : (complete k s).tmr = 0 := rfl
@[simp] theorem complete_code (k : Result) (s : State) : (complete k s).code = k.bits := rfl
@[simp] theorem complete_done (k : Result) (s : State) : (complete k s).done = true := rfl
@[simp] theorem complete_pm1_0 (k : Result) (s : State) : (complete k s).pm1_0 = s.pm1_0 := rfl
@[simp] theorem complete_pm2_5 (k : Result) (s : State) : (complete k s).pm2_5 = s.pm2_5 := rfl
@[simp] theorem complete_pm4_0 (k : Result) (s : State) : (complete k s).pm4_0 = s.pm4_0 := rfl
@[simp] theorem complete_pm10 (k : Result) (s : State) : (complete k s).pm10 = s.pm10 := rfl
@[simp] theorem complete_pmValid (k : Result) (s : State) : (complete k s).pmValid = s.pmValid := rfl
@[simp] theorem complete_coef (k : Result) (s : State) : (complete k s).coef = s.coef := rfl
@[simp] theorem complete_paylen (k : Result) (s : State) : (complete k s).paylen = s.paylen := rfl
@[simp] theorem complete_cfg (k : Result) (s : State) : (complete k s).cfg = s.cfg := rfl
@[simp] theorem complete_link (k : Result) (s : State) : (complete k s).link = s.link := rfl
@[simp] theorem complete_script (k : Result) (s : State) : (complete k s).script = s.script := rfl
@[simp] theorem complete_draws (k : Result) (s : State) : (complete k s).draws = s.draws := rfl

/-! ## Acceptance -/

@[simp] theorem accept_st (o : Op) (d : Byte) (s : State) : (accept o d s).st = .flush := rfl
@[simp] theorem accept_op (o : Op) (d : Byte) (s : State) : (accept o d s).op = o.bits := rfl
@[simp] theorem accept_data (o : Op) (d : Byte) (s : State) : (accept o d s).data = d := rfl
@[simp] theorem accept_buf (o : Op) (d : Byte) (s : State) : (accept o d s).buf = s.buf.writeList 0 (requestFrame s.cfg o d) := rfl
@[simp] theorem accept_idx (o : Op) (d : Byte) (s : State) : (accept o d s).idx = s.idx := rfl
@[simp] theorem accept_acc (o : Op) (d : Byte) (s : State) : (accept o d s).acc = s.acc := rfl
@[simp] theorem accept_tmr (o : Op) (d : Byte) (s : State) : (accept o d s).tmr = s.tmr := rfl
@[simp] theorem accept_code (o : Op) (d : Byte) (s : State) : (accept o d s).code = s.code := rfl
@[simp] theorem accept_done (o : Op) (d : Byte) (s : State) : (accept o d s).done = false := rfl
@[simp] theorem accept_pm1_0 (o : Op) (d : Byte) (s : State) : (accept o d s).pm1_0 = s.pm1_0 := rfl
@[simp] theorem accept_pm2_5 (o : Op) (d : Byte) (s : State) : (accept o d s).pm2_5 = s.pm2_5 := rfl
@[simp] theorem accept_pm4_0 (o : Op) (d : Byte) (s : State) : (accept o d s).pm4_0 = s.pm4_0 := rfl
@[simp] theorem accept_pm10 (o : Op) (d : Byte) (s : State) : (accept o d s).pm10 = s.pm10 := rfl
@[simp] theorem accept_pmValid (o : Op) (d : Byte) (s : State) : (accept o d s).pmValid = s.pmValid := rfl
@[simp] theorem accept_coef (o : Op) (d : Byte) (s : State) : (accept o d s).coef = s.coef := rfl
@[simp] theorem accept_paylen (o : Op) (d : Byte) (s : State) : (accept o d s).paylen = s.paylen := rfl
@[simp] theorem accept_cfg (o : Op) (d : Byte) (s : State) : (accept o d s).cfg = s.cfg := rfl
@[simp] theorem accept_link (o : Op) (d : Byte) (s : State) : (accept o d s).link = s.link := rfl
@[simp] theorem accept_script (o : Op) (d : Byte) (s : State) : (accept o d s).script = s.script := rfl
@[simp] theorem accept_draws (o : Op) (d : Byte) (s : State) : (accept o d s).draws = s.draws := rfl

/-! ## A stored reply byte -/

@[simp] theorem storeReply_st (b : Byte) (s : State) : (s.storeReply b).st = s.st := rfl
@[simp] theorem storeReply_op (b : Byte) (s : State) : (s.storeReply b).op = s.op := rfl
@[simp] theorem storeReply_data (b : Byte) (s : State) : (s.storeReply b).data = s.data := rfl
@[simp] theorem storeReply_buf (b : Byte) (s : State) : (s.storeReply b).buf = s.buf.write s.idx.toNat b := rfl
@[simp] theorem storeReply_idx (b : Byte) (s : State) : (s.storeReply b).idx = s.idx := rfl
@[simp] theorem storeReply_acc (b : Byte) (s : State) : (s.storeReply b).acc = s.acc + b := rfl
@[simp] theorem storeReply_tmr (b : Byte) (s : State) : (s.storeReply b).tmr = 0 := rfl
@[simp] theorem storeReply_code (b : Byte) (s : State) : (s.storeReply b).code = s.code := rfl
@[simp] theorem storeReply_done (b : Byte) (s : State) : (s.storeReply b).done = s.done := rfl
@[simp] theorem storeReply_pm1_0 (b : Byte) (s : State) : (s.storeReply b).pm1_0 = s.pm1_0 := rfl
@[simp] theorem storeReply_pm2_5 (b : Byte) (s : State) : (s.storeReply b).pm2_5 = s.pm2_5 := rfl
@[simp] theorem storeReply_pm4_0 (b : Byte) (s : State) : (s.storeReply b).pm4_0 = s.pm4_0 := rfl
@[simp] theorem storeReply_pm10 (b : Byte) (s : State) : (s.storeReply b).pm10 = s.pm10 := rfl
@[simp] theorem storeReply_pmValid (b : Byte) (s : State) : (s.storeReply b).pmValid = s.pmValid := rfl
@[simp] theorem storeReply_coef (b : Byte) (s : State) : (s.storeReply b).coef = s.coef := rfl
@[simp] theorem storeReply_paylen (b : Byte) (s : State) : (s.storeReply b).paylen = s.paylen := rfl
@[simp] theorem storeReply_cfg (b : Byte) (s : State) : (s.storeReply b).cfg = s.cfg := rfl
@[simp] theorem storeReply_link (b : Byte) (s : State) : (s.storeReply b).link = s.link := rfl
@[simp] theorem storeReply_script (b : Byte) (s : State) : (s.storeReply b).script = s.script := rfl
@[simp] theorem storeReply_draws (b : Byte) (s : State) : (s.storeReply b).draws = s.draws := rfl

/-! ## The next index -/

@[simp] theorem nextIndex_st (s : State) : (s.nextIndex).st = s.st := rfl
@[simp] theorem nextIndex_op (s : State) : (s.nextIndex).op = s.op := rfl
@[simp] theorem nextIndex_data (s : State) : (s.nextIndex).data = s.data := rfl
@[simp] theorem nextIndex_buf (s : State) : (s.nextIndex).buf = s.buf := rfl
@[simp] theorem nextIndex_idx (s : State) : (s.nextIndex).idx = s.idx + 1 := rfl
@[simp] theorem nextIndex_acc (s : State) : (s.nextIndex).acc = s.acc := rfl
@[simp] theorem nextIndex_tmr (s : State) : (s.nextIndex).tmr = s.tmr := rfl
@[simp] theorem nextIndex_code (s : State) : (s.nextIndex).code = s.code := rfl
@[simp] theorem nextIndex_done (s : State) : (s.nextIndex).done = s.done := rfl
@[simp] theorem nextIndex_pm1_0 (s : State) : (s.nextIndex).pm1_0 = s.pm1_0 := rfl
@[simp] theorem nextIndex_pm2_5 (s : State) : (s.nextIndex).pm2_5 = s.pm2_5 := rfl
@[simp] theorem nextIndex_pm4_0 (s : State) : (s.nextIndex).pm4_0 = s.pm4_0 := rfl
@[simp] theorem nextIndex_pm10 (s : State) : (s.nextIndex).pm10 = s.pm10 := rfl
@[simp] theorem nextIndex_pmValid (s : State) : (s.nextIndex).pmValid = s.pmValid := rfl
@[simp] theorem nextIndex_coef (s : State) : (s.nextIndex).coef = s.coef := rfl
@[simp] theorem nextIndex_paylen (s : State) : (s.nextIndex).paylen = s.paylen := rfl
@[simp] theorem nextIndex_cfg (s : State) : (s.nextIndex).cfg = s.cfg := rfl
@[simp] theorem nextIndex_link (s : State) : (s.nextIndex).link = s.link := rfl
@[simp] theorem nextIndex_script (s : State) : (s.nextIndex).script = s.script := rfl
@[simp] theorem nextIndex_draws (s : State) : (s.nextIndex).draws = s.draws := rfl

/-! ## A waited cycle -/

@[simp] theorem countWait_st (s : State) : (s.countWait).st = s.st := rfl
@[simp] theorem countWait_op (s : State) : (s.countWait).op = s.op := rfl
@[simp] theorem countWait_data (s : State) : (s.countWait).data = s.data := rfl
@[simp] theorem countWait_buf (s : State) : (s.countWait).buf = s.buf := rfl
@[simp] theorem countWait_idx (s : State) : (s.countWait).idx = s.idx := rfl
@[simp] theorem countWait_acc (s : State) : (s.countWait).acc = s.acc := rfl
@[simp] theorem countWait_tmr (s : State) : (s.countWait).tmr = s.tmr + 1 := rfl
@[simp] theorem countWait_code (s : State) : (s.countWait).code = s.code := rfl
@[simp] theorem countWait_done (s : State) : (s.countWait).done = s.done := rfl
@[simp] theorem countWait_pm1_0 (s : State) : (s.countWait).pm1_0 = s.pm1_0 := rfl
@[simp] theorem countWait_pm2_5 (s : State) : (s.countWait).pm2_5 = s.pm2_5 := rfl
@[simp] theorem countWait_pm4_0 (s : State) : (s.countWait).pm4_0 = s.pm4_0 := rfl
@[simp] theorem countWait_pm10 (s : State) : (s.countWait).pm10 = s.pm10 := rfl
@[simp] theorem countWait_pmValid (s : State) : (s.countWait).pmValid = s.pmValid := rfl
@[simp] theorem countWait_coef (s : State) : (s.countWait).coef = s.coef := rfl
@[simp] theorem countWait_paylen (s : State) : (s.countWait).paylen = s.paylen := rfl
@[simp] theorem countWait_cfg (s : State) : (s.countWait).cfg = s.cfg := rfl
@[simp] theorem countWait_link (s : State) : (s.countWait).link = s.link := rfl
@[simp] theorem countWait_script (s : State) : (s.countWait).script = s.script := rfl
@[simp] theorem countWait_draws (s : State) : (s.countWait).draws = s.draws := rfl

/-! ## Reset -/

@[simp] theorem resetState_st (s : State) : (resetState s).st = .idle := rfl
@[simp] theorem resetState_op (s : State) : (resetState s).op = 0 := rfl
@[simp] theorem resetState_data (s : State) : (resetState s).data = 0 := rfl
@[simp] theorem resetState_buf (s : State) : (resetState s).buf = s.buf := rfl
@[simp] theorem resetState_idx (s : State) : (resetState s).idx = 0 := rfl
@[simp] theorem resetState_acc (s : State) : (resetState s).acc = 0 := rfl
@[simp] theorem resetState_tmr (s : State) : (resetState s).tmr = 0 := rfl
@[simp] theorem resetState_code (s : State) : (resetState s).code = 0 := rfl
@[simp] theorem resetState_done (s : State) : (resetState s).done = false := rfl
@[simp] theorem resetState_pm1_0 (s : State) : (resetState s).pm1_0 = 0 := rfl
@[simp] theorem resetState_pm2_5 (s : State) : (resetState s).pm2_5 = 0 := rfl
@[simp] theorem resetState_pm4_0 (s : State) : (resetState s).pm4_0 = 0 := rfl
@[simp] theorem resetState_pm10 (s : State) : (resetState s).pm10 = 0 := rfl
@[simp] theorem resetState_pmValid (s : State) : (resetState s).pmValid = false := rfl
@[simp] theorem resetState_coef (s : State) : (resetState s).coef = 0 := rfl
@[simp] theorem resetState_paylen (s : State) : (resetState s).paylen = 0 := rfl
@[simp] theorem resetState_cfg (s : State) : (resetState s).cfg = s.cfg := rfl
@[simp] theorem resetState_link (s : State) : (resetState s).link = s.link := rfl
@[simp] theorem resetState_script (s : State) : (resetState s).script = s.script := rfl
@[simp] theorem resetState_draws (s : State) : (resetState s).draws = s.draws := rfl

/-! ## The environment past an edge -/

@[simp] theorem afterEdge_st (s : State) : (s.afterEdge).st = s.st := rfl
@[simp] theorem afterEdge_op (s : State) : (s.afterEdge).op = s.op := rfl
@[simp] theorem afterEdge_data (s : State) : (s.afterEdge).data = s.data := rfl
@[simp] theorem afterEdge_buf (s : State) : (s.afterEdge).buf = s.buf := rfl
@[simp] theorem afterEdge_idx (s : State) : (s.afterEdge).idx = s.idx := rfl
@[simp] theorem afterEdge_acc (s : State) : (s.afterEdge).acc = s.acc := rfl
@[simp] theorem afterEdge_tmr (s : State) : (s.afterEdge).tmr = s.tmr := rfl
@[simp] theorem afterEdge_code (s : State) : (s.afterEdge).code = s.code := rfl
@[simp] theorem afterEdge_done (s : State) : (s.afterEdge).done = s.done := rfl
@[simp] theorem afterEdge_pm1_0 (s : State) : (s.afterEdge).pm1_0 = s.pm1_0 := rfl
@[simp] theorem afterEdge_pm2_5 (s : State) : (s.afterEdge).pm2_5 = s.pm2_5 := rfl
@[simp] theorem afterEdge_pm4_0 (s : State) : (s.afterEdge).pm4_0 = s.pm4_0 := rfl
@[simp] theorem afterEdge_pm10 (s : State) : (s.afterEdge).pm10 = s.pm10 := rfl
@[simp] theorem afterEdge_pmValid (s : State) : (s.afterEdge).pmValid = s.pmValid := rfl
@[simp] theorem afterEdge_coef (s : State) : (s.afterEdge).coef = s.coef := rfl
@[simp] theorem afterEdge_paylen (s : State) : (s.afterEdge).paylen = s.paylen := rfl
@[simp] theorem afterEdge_cfg (s : State) : (s.afterEdge).cfg = s.cfg := rfl
@[simp] theorem afterEdge_link (s : State) : (s.afterEdge).link = linkAfter s.edge s := rfl
@[simp] theorem afterEdge_script (s : State) : (s.afterEdge).script = s.scriptAfter := rfl
@[simp] theorem afterEdge_draws (s : State) : (s.afterEdge).draws = s.drawsAfter := rfl

/-! ## The decode's writes -/

@[simp] theorem applyWrites_st (w : Writes) (s : State) : (applyWrites w s).st = s.st := by cases w <;> rfl
@[simp] theorem applyWrites_op (w : Writes) (s : State) : (applyWrites w s).op = s.op := by cases w <;> rfl
@[simp] theorem applyWrites_data (w : Writes) (s : State) : (applyWrites w s).data = s.data := by cases w <;> rfl
@[simp] theorem applyWrites_buf (w : Writes) (s : State) : (applyWrites w s).buf = s.buf := by cases w <;> rfl
@[simp] theorem applyWrites_idx (w : Writes) (s : State) : (applyWrites w s).idx = s.idx := by cases w <;> rfl
@[simp] theorem applyWrites_acc (w : Writes) (s : State) : (applyWrites w s).acc = s.acc := by cases w <;> rfl
@[simp] theorem applyWrites_tmr (w : Writes) (s : State) : (applyWrites w s).tmr = s.tmr := by cases w <;> rfl
@[simp] theorem applyWrites_code (w : Writes) (s : State) : (applyWrites w s).code = s.code := by cases w <;> rfl
@[simp] theorem applyWrites_done (w : Writes) (s : State) : (applyWrites w s).done = s.done := by cases w <;> rfl
@[simp] theorem applyWrites_paylen (w : Writes) (s : State) : (applyWrites w s).paylen = s.paylen := by cases w <;> rfl
@[simp] theorem applyWrites_cfg (w : Writes) (s : State) : (applyWrites w s).cfg = s.cfg := by cases w <;> rfl
@[simp] theorem applyWrites_link (w : Writes) (s : State) : (applyWrites w s).link = s.link := by cases w <;> rfl
@[simp] theorem applyWrites_script (w : Writes) (s : State) : (applyWrites w s).script = s.script := by cases w <;> rfl
@[simp] theorem applyWrites_draws (w : Writes) (s : State) : (applyWrites w s).draws = s.draws := by cases w <;> rfl
@[simp] theorem applyWrites_none (s : State) : applyWrites .none s = s := rfl
@[simp] theorem applyWrites_measurement_pm1_0 (a b c d : Half) (v : Bool) (s : State) :
    (applyWrites (.measurement a b c d v) s).pm1_0 = a := rfl
@[simp] theorem applyWrites_measurement_pm2_5 (a b c d : Half) (v : Bool) (s : State) :
    (applyWrites (.measurement a b c d v) s).pm2_5 = b := rfl
@[simp] theorem applyWrites_measurement_pm4_0 (a b c d : Half) (v : Bool) (s : State) :
    (applyWrites (.measurement a b c d v) s).pm4_0 = c := rfl
@[simp] theorem applyWrites_measurement_pm10 (a b c d : Half) (v : Bool) (s : State) :
    (applyWrites (.measurement a b c d v) s).pm10 = d := rfl
@[simp] theorem applyWrites_measurement_pmValid (a b c d : Half) (v : Bool) (s : State) :
    (applyWrites (.measurement a b c d v) s).pmValid = v := rfl
@[simp] theorem applyWrites_measurement_coef (a b c d : Half) (v : Bool) (s : State) :
    (applyWrites (.measurement a b c d v) s).coef = s.coef := rfl
@[simp] theorem applyWrites_coefficient_pm1_0 (v : Byte) (s : State) : (applyWrites (.coefficient v) s).pm1_0 = s.pm1_0 := rfl
@[simp] theorem applyWrites_coefficient_pm2_5 (v : Byte) (s : State) : (applyWrites (.coefficient v) s).pm2_5 = s.pm2_5 := rfl
@[simp] theorem applyWrites_coefficient_pm4_0 (v : Byte) (s : State) : (applyWrites (.coefficient v) s).pm4_0 = s.pm4_0 := rfl
@[simp] theorem applyWrites_coefficient_pm10 (v : Byte) (s : State) : (applyWrites (.coefficient v) s).pm10 = s.pm10 := rfl
@[simp] theorem applyWrites_coefficient_pmValid (v : Byte) (s : State) : (applyWrites (.coefficient v) s).pmValid = s.pmValid := rfl
@[simp] theorem applyWrites_coefficient_coef (v : Byte) (s : State) : (applyWrites (.coefficient v) s).coef = v := rfl

end Sys2Proof.Machine
end

