-- ==== Sys2Proof/Laws/Memory.lean ====
section
/-! SUPPORT. Reading BUF after writing it, and the canonical form kept by every write (R12, R34, R38). -/

namespace Sys2Proof.Machine

theorem Memory.lookup_write_same (m : Memory) (i : Nat) (b : Byte) : (m.write i b).lookup i = some b := by
  induction m with
  | nil => simp [Memory.write, Memory.lookup]
  | cons c m ih =>
    obtain ⟨j, c⟩ := c
    simp only [Memory.write]
    split
    · simp [Memory.lookup]
    · split
      · simp [Memory.lookup]
      · rename_i h
        simp [Memory.lookup, Ne.symm h, ih]

theorem Memory.lookup_write_ne (m : Memory) {i k : Nat} (b : Byte) (h : k ≠ i) :
    (m.write i b).lookup k = m.lookup k := by
  induction m with
  | nil => simp [Memory.write, Memory.lookup, Ne.symm h]
  | cons c m ih =>
    obtain ⟨j, c⟩ := c
    simp only [Memory.write]
    split
    · simp [Memory.lookup, Ne.symm h]
    · split
      · rename_i h1 h2
        subst h2
        simp [Memory.lookup, Ne.symm h]
      · simp only [Memory.lookup, ih]

/-- A read of the index just written gives the byte written. -/
@[simp] theorem Memory.read_write_same (m : Memory) (i : Nat) (b : Byte) : (m.write i b).read i = b := by
  simp [Memory.read, Memory.lookup_write_same]

/-- A write leaves every other index as it was. -/
theorem Memory.read_write_ne (m : Memory) {i k : Nat} (b : Byte) (h : k ≠ i) : (m.write i b).read k = m.read k := by
  simp [Memory.read, Memory.lookup_write_ne m b h]

/-- What one written byte does to any read. -/
theorem Memory.read_write (m : Memory) (i k : Nat) (b : Byte) :
    (m.write i b).read k = if k = i then b else m.read k := by
  by_cases h : k = i
  · simp [h]
  · simp [h, Memory.read_write_ne m b h]

/-- Bytes written from `i` leave every index below `i` as it was. -/
theorem Memory.read_writeList_lt (bs : List Byte) : ∀ (m : Memory) {i k : Nat}, k < i →
    (m.writeList i bs).read k = m.read k := by
  induction bs with
  | nil => intros; rfl
  | cons b bs ih =>
    intro m i k h
    rw [Memory.writeList, ih _ (Nat.lt_succ_of_lt h), Memory.read_write_ne _ _ (Nat.ne_of_lt h)]

/-- Bytes written from `i` leave every index at or above their end as it was. -/
theorem Memory.read_writeList_ge (bs : List Byte) : ∀ (m : Memory) {i k : Nat}, i + bs.length ≤ k →
    (m.writeList i bs).read k = m.read k := by
  induction bs with
  | nil => intros; rfl
  | cons b bs ih =>
    intro m i k h
    simp only [List.length_cons] at h
    rw [Memory.writeList, ih _ (by omega), Memory.read_write_ne _ _ (by omega)]

/-- The `j`-th of the bytes written from `i` is read back at `i + j`. -/
theorem Memory.read_writeList_at (bs : List Byte) : ∀ (m : Memory) (i j : Nat) (h : j < bs.length),
    (m.writeList i bs).read (i + j) = bs[j] := by
  induction bs with
  | nil => intro m i j h; simp at h
  | cons b bs ih =>
    intro m i j h
    rw [Memory.writeList]
    cases j with
    | zero => rw [Memory.read_writeList_lt bs _ (by omega)]; simp
    | succ j =>
      have h' : j < bs.length := by simpa using h
      have e : i + (j + 1) = (i + 1) + j := by omega
      rw [e, ih (m.write i b) (i + 1) j h']
      simp

theorem Memory.risesFrom_write (m : Memory) : ∀ {lo i : Nat} (b : Byte), lo ≤ i →
    m.risesFrom lo = true → (m.write i b).risesFrom lo = true := by
  induction m with
  | nil => intro lo i b h _; simp [Memory.write, Memory.risesFrom, h]
  | cons c m ih =>
    obtain ⟨j, c⟩ := c
    intro lo i b h hm
    simp only [Memory.risesFrom, Bool.and_eq_true, decide_eq_true_eq] at hm
    simp only [Memory.write]
    split
    · rename_i h1
      simp [Memory.risesFrom, h, hm.2, Nat.succ_le_of_lt h1]
    · split
      · rename_i h1 h2
        subst h2
        simp [Memory.risesFrom, h, hm.2]
      · rename_i h1 h2
        simp only [Memory.risesFrom, Bool.and_eq_true, decide_eq_true_eq]
        exact ⟨hm.1, ih b (by omega) hm.2⟩

/-- A write keeps the canonical form. -/
theorem Memory.wf_write (m : Memory) (i : Nat) (b : Byte) (h : m.wf = true) : (m.write i b).wf = true :=
  Memory.risesFrom_write m b (Nat.zero_le i) h

/-- A run of writes keeps the canonical form. -/
theorem Memory.wf_writeList (bs : List Byte) : ∀ (m : Memory) (i : Nat), m.wf = true →
    (m.writeList i bs).wf = true := by
  induction bs with
  | nil => intro m i h; exact h
  | cons b bs ih => intro m i h; exact ih _ _ (Memory.wf_write m i b h)

theorem Memory.within_write (m : Memory) {cap i : Nat} (b : Byte) (hi : i < cap) (h : m.within cap = true) :
    (m.write i b).within cap = true := by
  induction m with
  | nil => simp [Memory.write, Memory.within, hi]
  | cons c m ih =>
    obtain ⟨j, c⟩ := c
    simp only [Memory.within, List.all_cons, Bool.and_eq_true, decide_eq_true_eq] at h
    simp only [Memory.write]
    split
    · simp [Memory.within, hi, h.1]; simpa [Memory.within] using h.2
    · split
      · simp [Memory.within, hi]; simpa [Memory.within] using h.2
      · simp only [Memory.within, List.all_cons, Bool.and_eq_true, decide_eq_true_eq]
        exact ⟨h.1, ih h.2⟩

theorem Memory.within_writeList (bs : List Byte) : ∀ (m : Memory) {cap i : Nat}, i + bs.length ≤ cap →
    m.within cap = true → (m.writeList i bs).within cap = true := by
  induction bs with
  | nil => intro m cap i _ h; exact h
  | cons b bs ih =>
    intro m cap i hi h
    simp only [List.length_cons] at hi
    exact ih _ (by omega) (Memory.within_write m b (by omega) h)

/-- The memory right after reset is canonical. -/
theorem Memory.wf_reset : State.reset.buf.wf = true := rfl

end Sys2Proof.Machine
end

