-- ==== Sys2Proof/Laws/Ops.lean ====
section
/-! SUPPORT. One specification lemma for each shared operation, and for the instructions by what they are decoded from. -/

namespace Sys2Proof.Machine

theorem Config.cap_ge (c : Config) : 16 ≤ c.cap := c.bufCap.property.1

theorem Config.cap_le (c : Config) : c.cap ≤ 256 := c.bufCap.property.2

theorem Config.timeout_pos (c : Config) : 0 < c.timeout := c.timeoutCycles.property.1

theorem Config.timeout_lt (c : Config) : c.timeout < 2 ^ 32 := Nat.lt_succ_of_le c.timeoutCycles.property.2

theorem txLen_cases (op : Op) : txLen op = 4 ∨ txLen op = 5 := by cases op <;> simp [txLen]

/-- A request frame is TxLen bytes long. -/
theorem requestFrame_length (cfg : Config) (op : Op) (d : Byte) : (requestFrame cfg op d).length = txLen op := by
  cases op <;> rfl

theorem sum8_append (as bs : List Byte) : sum8 (as ++ bs) = sum8 as + sum8 bs := by
  induction as with
  | nil => simp [sum8]
  | cons a as ih => simp [sum8, ih, BitVec.add_assoc]

theorem deadlineDue_iff (s : State) : s.deadlineDue = true ↔ s.tmr.toNat + 1 = s.cfg.timeout := by
  simp [State.deadlineDue]

theorem lengthFits_iff (cfg : Config) (len : Byte) : lengthFits cfg len = true ↔ len.toNat + 3 ≤ cfg.cap := by
  have := Config.cap_ge cfg
  simp only [lengthFits, decide_eq_true_eq]
  omega

theorem whenIndexed_of_lt {s : State} (h : s.idx.toNat < s.cfg.cap) (k : StepResult) : whenIndexed s k = k := if_pos h

theorem whenIndexed_next {s t : State} {k : StepResult} (h : whenIndexed s k = .next t) :
    s.idx.toNat < s.cfg.cap ∧ k = .next t := by
  unfold whenIndexed at h
  split at h
  · exact ⟨‹_›, h⟩
  · cases h

/-- The code of an operation names it. -/
@[simp] theorem Op.ofBits_bits (op : Op) : Op.ofBits op.bits = some op := by cases op <;> rfl

/-- ST's encoding names it. -/
@[simp] theorem SeqState.bits_ofBits (b : BitVec 3) : (SeqState.ofBits b).bits = b := by
  revert b
  decide

/-- A code of 0 to 4 is recorded of every result (R31). -/
theorem Result.bits_le (k : Result) : k.bits.toNat ≤ 4 := by cases k <;> decide

theorem whenOperation_of_eq {s : State} {op : Op} (h : s.op = op.bits) (k : Op → StepResult) : whenOperation s k = k op := by
  simp [whenOperation, h]

theorem whenOperation_of_reserved {s : State} (h : s.op = 0b111) (k : Op → StepResult) :
    whenOperation s k = .fault .noOperation := by
  simp [whenOperation, h, Op.ofBits]

theorem classifying_iff (s : State) : s.classifying = true ↔ s.st = .rxHdr ∧ s.idx ≠ 0 := by
  simp [State.classifying]

/-! ## Requests -/

theorem exec_requestInstr (op : Op) (d : Byte) (s : State) : exec (requestInstr op d) s = presentRequest op d s := by
  cases op <;> rfl

theorem decode_request_bits (op : Op) (d : Byte) : decode (.request op.bits d) = requestInstr op d := by
  cases op <;> rfl

/-- A three-bit code is an operation's, or the reserved one. -/
theorem opcode_cases (c : BitVec 3) : (∃ op : Op, c = op.bits) ∨ c = 0b111 := by
  have h : ∀ c : BitVec 3, c = 0 ∨ c = 1 ∨ c = 2 ∨ c = 3 ∨ c = 4 ∨ c = 5 ∨ c = 6 ∨ c = 7 := by decide
  rcases h c with h | h | h | h | h | h | h | h
  · exact .inl ⟨.readMeas, h⟩
  · exact .inl ⟨.startMeas, h⟩
  · exact .inl ⟨.stopMeas, h⟩
  · exact .inl ⟨.setCoef, h⟩
  · exact .inl ⟨.readCoef, h⟩
  · exact .inl ⟨.enAutosend, h⟩
  · exact .inl ⟨.stopAutosend, h⟩
  · exact .inr h

theorem Op.bits_ne_reserved (op : Op) : op.bits ≠ 0b111 := by cases op <;> decide

/-- If OP's operation lets a step go on, OP holds an operation's code. -/
theorem whenOperation_next {s t : State} {k : Op → StepResult} (h : whenOperation s k = .next t) :
    ∃ op : Op, s.op = op.bits ∧ k op = .next t := by
  rcases opcode_cases s.op with ⟨op, hop⟩ | hop
  · exact ⟨op, hop, by rwa [whenOperation_of_eq hop] at h⟩
  · rw [whenOperation_of_reserved hop] at h
    cases h

theorem Op.bits_injective {a b : Op} (h : a.bits = b.bits) : a = b := by
  cases a <;> cases b <;> first | rfl | exact absurd h (by decide)

theorem exec_decode_reserved (d : Byte) (s : State) :
    exec (decode (.request 0b111 d)) s = .refused .reservedRequest := rfl

/-! ## Headers -/

/-- What a classified header pair does to the state, by the operation in progress (R77). -/
def headerEnd (op : Op) (b0 b1 : Byte) (s : State) : State :=
  match kind op with
  | .ack => complete (ackClass b0 b1) s
  | .data =>
    if b0 = 0x40 then enterBody b1 s
    else complete (if b0 = 0x96 ∧ b1 = 0x96 then .deviceRejected else .transportError) s

/-- A header pair, decoded and run where a header is classified, gives R77's result. -/
theorem exec_decode_header (b0 b1 : Byte) {s : State} {op : Op} (h : s.classifying = true) (hop : s.op = op.bits) :
    exec (decode (.header b0 b1)) s = .next (headerEnd op b0 b1 s) := by
  simp only [decode, decodeHeader]
  split
  · rename_i h1
    obtain ⟨rfl, rfl⟩ := h1
    simp only [exec, execRxHdrAckAck, classify, h, if_true, whenOperation_of_eq hop, headerEnd]
    cases kind op <;> simp [ackClass]
  · rename_i h1
    split
    · rename_i h2
      obtain ⟨rfl, rfl⟩ := h2
      simp only [exec, execRxHdrNackNack, classify, h, if_true, whenOperation_of_eq hop, headerEnd]
      cases kind op <;> simp [ackClass]
    · rename_i h2
      split
      · rename_i h3
        subst h3
        simp only [exec, execRxHdrResp, classify, h, if_true, whenOperation_of_eq hop, headerEnd]
        cases kind op <;> simp [ackClass]
      · rename_i h3
        simp only [exec, execRxHdrOther, classify, h, if_true, whenOperation_of_eq hop, headerEnd]
        cases kind op <;> simp only [ackClass, if_neg h1, if_neg h2, if_neg h3]

/-- Where OP holds the reserved code, a classified header pair stops the block (log 6). -/
theorem exec_decode_header_reserved (b0 b1 : Byte) {s : State} (h : s.classifying = true) (hop : s.op = 0b111) :
    exec (decode (.header b0 b1)) s = .fault .noOperation := by
  simp only [decode, decodeHeader]
  repeat' split
  all_goals
    simp only [exec, execRxHdrAckAck, execRxHdrNackNack, execRxHdrResp, execRxHdrOther, classify, h, if_true,
      whenOperation_of_reserved hop]

/-- If a classified header pair answers a next state, OP holds an operation's code, and that state is R77's. -/
theorem exec_decode_header_next (b0 b1 : Byte) {s t : State} (h : s.classifying = true)
    (ht : exec (decode (.header b0 b1)) s = .next t) : ∃ op : Op, s.op = op.bits ∧ t = headerEnd op b0 b1 s := by
  rcases opcode_cases s.op with ⟨op, hop⟩ | hop
  · rw [exec_decode_header b0 b1 h hop] at ht
    cases ht
    exact ⟨op, hop, rfl⟩
  · rw [exec_decode_header_reserved b0 b1 h hop] at ht
    cases ht

/-- A classified header pair either completes the exchange or, being a data header whose length fits, enters the body. -/
theorem headerEnd_cases (op : Op) (b0 b1 : Byte) (s : State) :
    (∃ k, headerEnd op b0 b1 s = complete k s) ∨
    (kind op = .data ∧ b0 = 0x40 ∧ b1.toNat + 3 ≤ s.cfg.cap ∧ headerEnd op b0 b1 s = { s with st := .rxBody, idx := 2 }) := by
  unfold headerEnd
  split
  · exact .inl ⟨_, rfl⟩
  · split
    · unfold enterBody
      split
      · rename_i h
        exact .inr ⟨‹_›, ‹_›, (lengthFits_iff _ _).mp h, rfl⟩
      · exact .inl ⟨_, rfl⟩
    · exact .inl ⟨_, rfl⟩

/-! ## Index and counter arithmetic -/

theorem index_succ_toNat {i : Index} (h : i.toNat + 1 < 512) : (i + 1).toNat = i.toNat + 1 := by
  simp [BitVec.toNat_add]
  omega

theorem checksumIndex_toNat (len : Byte) : (len.setWidth 9 + 2 : Index).toNat = len.toNat + 2 := by
  have := len.isLt
  simp [BitVec.toNat_add]
  omega

/-- The 9-bit comparison with LEN + 2 (R79) is the comparison of the numbers (R86). -/
theorem index_eq_checksumIndex_iff (i : Index) (len : Byte) : i = len.setWidth 9 + 2 ↔ i.toNat = len.toNat + 2 := by
  rw [← BitVec.toNat_inj, checksumIndex_toNat]

theorem ticks_succ_toNat {t : Ticks} (h : t.toNat + 1 < 2 ^ 32) : (t + 1).toNat = t.toNat + 1 := by
  simp [BitVec.toNat_add]
  omega

/-! ## The deserializer and Finish -/

theorem decodeReply_isSome_iff (cfg : Config) (op : Op) (rd : Nat → Byte) :
    (decodeReply cfg op rd).isSome = true ↔ kind op = .data := by
  cases op <;> simp [decodeReply, kind]

/-- A decode writes only what its operation produces, and only when it is Ok (R93, R94, R96). -/
theorem decodeReply_cases {cfg : Config} {op : Op} {rd : Nat → Byte} {k : Result} {w : Writes}
    (h : decodeReply cfg op rd = some (k, w)) :
    (k = .ok ∧ op = .readMeas ∧ ∃ a b c d v, w = .measurement a b c d v ∧ (v = false → a = 0 ∧ c = 0)) ∨
    (k = .ok ∧ op = .readCoef ∧ ∃ v, w = .coefficient v) ∨
    (k = .transportError ∧ w = .none) := by
  cases op <;> simp only [decodeReply, Option.some.injEq, reduceCtorEq] at h
  · unfold decodeMeas at h
    split at h
    · cases h; exact .inl ⟨rfl, rfl, _, _, _, _, _, rfl, by simp⟩
    · split at h
      · cases h; exact .inl ⟨rfl, rfl, _, _, _, _, _, rfl, by simp⟩
      · cases h; exact .inr (.inr ⟨rfl, rfl⟩)
  · unfold decodeCoef at h
    split at h
    · cases h; exact .inr (.inl ⟨rfl, rfl, _, rfl⟩)
    · cases h; exact .inr (.inr ⟨rfl, rfl⟩)

/-- A decode reads indices 1 to 10 only (R35, R95). -/
theorem decodeReply_congr (cfg : Config) (op : Op) {rd rd' : Nat → Byte} (h : ∀ i, 1 ≤ i → i ≤ 10 → rd i = rd' i) :
    decodeReply cfg op rd = decodeReply cfg op rd' := by
  cases op <;> simp only [decodeReply]
  · simp only [decodeMeas, h 1 (by decide) (by decide), h 2 (by decide) (by decide), h 3 (by decide) (by decide),
      h 4 (by decide) (by decide), h 5 (by decide) (by decide), h 6 (by decide) (by decide), h 7 (by decide) (by decide),
      h 8 (by decide) (by decide), h 9 (by decide) (by decide), h 10 (by decide) (by decide)]
  · simp only [decodeCoef, h 1 (by decide) (by decide), h 2 (by decide) (by decide), h 3 (by decide) (by decide)]

/-- Everything Finish can do when it answers a next state (R80). -/
theorem finish_next {a : Byte} {s t : State} (h : finish a s = .next t) :
    (a ≠ 0 ∧ t = complete .checksumError s) ∨
    (a = 0 ∧ ∃ op k w, s.op = op.bits ∧ decodeReply s.cfg op s.byteAt = some (k, w) ∧
      t = complete k (applyWrites w { s with paylen := s.byteAt 1 })) := by
  unfold finish at h
  split at h
  · cases h; exact .inl ⟨‹_›, rfl⟩
  · rename_i ha
    obtain ⟨op, hop, h⟩ := whenOperation_next h
    split at h
    · rename_i k w hd
      cases h
      exact .inr ⟨by simpa using ha, op, k, w, hop, hd, rfl⟩
    · cases h

theorem finish_of_bad {a : Byte} (h : a ≠ 0) (s : State) : finish a s = .next (complete .checksumError s) := if_pos h

theorem finish_of_good {s : State} {op : Op} {k : Result} {w : Writes} (hop : s.op = op.bits)
    (h : decodeReply s.cfg op s.byteAt = some (k, w)) :
    finish 0 s = .next (complete k (applyWrites w { s with paylen := s.byteAt 1 })) := by
  simp [finish, whenOperation_of_eq hop, h]

end Sys2Proof.Machine
end

