-- ==== Sys2Proof/Laws/PerInstr.lean ====
section
/-! SUPPORT. For every instruction: its encoded word lies in the opcode table's row of its name, and in no row of the same
format that the table lists above it. -/

namespace Sys2Proof

/-- The rows of the table above an instruction's own, of its format: the request rows are disjoint, so only RX_HDR_OTHER, which
admits every pair, has any. -/
def rowsAbove : Instr → List TableRow
  | .readMeas _ => []
  | .startMeas _ => []
  | .stopMeas _ => []
  | .setCoef _ => []
  | .readCoef _ => []
  | .enAutosend _ => []
  | .stopAutosend _ => []
  | .reserved _ => []
  | .rxHdrAckAck => []
  | .rxHdrNackNack => [⟨.rxHeader, 0xA5A5, 0xFFFF⟩]
  | .rxHdrResp _ => [⟨.rxHeader, 0xA5A5, 0xFFFF⟩, ⟨.rxHeader, 0x9696, 0xFFFF⟩]
  | .rxHdrOther _ _ => [⟨.rxHeader, 0xA5A5, 0xFFFF⟩, ⟨.rxHeader, 0x9696, 0xFFFF⟩, ⟨.rxHeader, 0x4000, 0xFF00⟩]

namespace Laws.TableRows

/-- The encoded word of a well-formed instruction meets its own row's match under its mask, and no row above it. -/
def Statement (i : Instr) : Prop :=
  i.wf = true → tableFormat (encodeTableWord i).1 = (tableRow i).format ∧
    (tableRow i).admits (encodeTableWord i).2 = true ∧ ∀ r ∈ rowsAbove i, r.admits (encodeTableWord i).2 = false

/-- The low three bits of a request word are its operation code. -/
theorem request_low (d : Byte) (k : Nat) (hk : k < 8) : (d.toNat * 256 + k) &&& 0x7 = k := by
  rw [show (0x7 : Nat) = 2 ^ 3 - 1 from rfl, Nat.and_two_pow_sub_one_eq_mod]
  omega

/-- A request word meets the row of its operation code. -/
theorem request_admits (d : Byte) (k : Nat) (hk : k < 8) :
    (TableRow.mk .req k 0x7).admits (d.toNat * 256 + k) = true :=
  beq_iff_eq.mpr (request_low d k hk)

/-- A header word under a full mask is itself. -/
theorem header_full (b0 b1 : Byte) : (b0.toNat * 256 + b1.toNat) &&& 0xFFFF = b0.toNat * 256 + b1.toNat := by
  rw [show (0xFFFF : Nat) = 2 ^ 16 - 1 from rfl, Nat.and_two_pow_sub_one_eq_mod]
  have := b0.isLt
  have := b1.isLt
  omega

/-- The mask 0xFF00 keeps the second byte of a word. -/
theorem and_ff00 (x : Nat) : x &&& 0xFF00 = ((x >>> 8) &&& 0xFF) <<< 8 := by
  rw [show (0xFF00 : Nat) = 0xFF <<< 8 from rfl]
  apply Nat.eq_of_testBit_eq
  intro i
  rw [Nat.testBit_and, Nat.testBit_shiftLeft, Nat.testBit_shiftLeft, Nat.testBit_and, Nat.testBit_shiftRight]
  by_cases h : 8 ≤ i
  · rw [show 8 + (i - 8) = i by omega]
    simp [h]
  · simp [h]

/-- A header word under the mask 0xFF00 is its first byte. -/
theorem header_first (b0 b1 : Byte) : (b0.toNat * 256 + b1.toNat) &&& 0xFF00 = b0.toNat * 256 := by
  have h0 := b0.isLt
  have h1 := b1.isLt
  rw [and_ff00, show (0xFF : Nat) = 2 ^ 8 - 1 from rfl, Nat.and_two_pow_sub_one_eq_mod, Nat.shiftRight_eq_div_pow,
    Nat.shiftLeft_eq]
  omega

theorem readMeas (data : Byte) : Statement (.readMeas data) := fun _ =>
  ⟨rfl, request_admits data 0 (by decide), by simp [rowsAbove]⟩

theorem startMeas (data : Byte) : Statement (.startMeas data) := fun _ =>
  ⟨rfl, request_admits data 1 (by decide), by simp [rowsAbove]⟩

theorem stopMeas (data : Byte) : Statement (.stopMeas data) := fun _ =>
  ⟨rfl, request_admits data 2 (by decide), by simp [rowsAbove]⟩

theorem setCoef (data : Byte) : Statement (.setCoef data) := fun _ =>
  ⟨rfl, request_admits data 3 (by decide), by simp [rowsAbove]⟩

theorem readCoef (data : Byte) : Statement (.readCoef data) := fun _ =>
  ⟨rfl, request_admits data 4 (by decide), by simp [rowsAbove]⟩

theorem enAutosend (data : Byte) : Statement (.enAutosend data) := fun _ =>
  ⟨rfl, request_admits data 5 (by decide), by simp [rowsAbove]⟩

theorem stopAutosend (data : Byte) : Statement (.stopAutosend data) := fun _ =>
  ⟨rfl, request_admits data 6 (by decide), by simp [rowsAbove]⟩

theorem reserved (data : Byte) : Statement (.reserved data) := fun _ =>
  ⟨rfl, request_admits data 7 (by decide), by simp [rowsAbove]⟩

theorem rxHdrAckAck : Statement .rxHdrAckAck := fun _ => by decide

theorem rxHdrNackNack : Statement .rxHdrNackNack := fun _ => by decide

theorem rxHdrResp (len : Byte) : Statement (.rxHdrResp len) := fun _ => by
  have h := len.isLt
  refine ⟨rfl, ?_, ?_⟩
  · have := header_first 0x40 len
    simp only [TableRow.admits, tableRow, encodeTableWord, encode, beq_iff_eq]
    rw [this]
    rfl
  · intro r hr
    simp only [rowsAbove, List.mem_cons, List.not_mem_nil, or_false] at hr
    have := header_full 0x40 len
    have e : (0x40 : Byte).toNat = 64 := rfl
    rcases hr with rfl | rfl <;>
      · simp only [TableRow.admits, encodeTableWord, encode, beq_eq_false_iff_ne]
        rw [this, e]
        omega

theorem rxHdrOther (b0 b1 : Byte) : Statement (.rxHdrOther b0 b1) := fun hwf => by
  have h0 := b0.isLt
  have h1 := b1.isLt
  simp only [Instr.wf, Instr.notAckPair, Instr.notNackPair, Instr.notResp, Bool.and_eq_true, Bool.not_eq_true',
    Bool.and_eq_false_iff, beq_eq_false_iff_ne, ne_eq, ← BitVec.toNat_inj, BitVec.ofNat_eq_ofNat, BitVec.toNat_ofNat] at hwf
  refine ⟨rfl, by simp [TableRow.admits, tableRow], ?_⟩
  intro r hr
  simp only [rowsAbove, List.mem_cons, List.not_mem_nil, or_false] at hr
  rcases hr with rfl | rfl | rfl <;> simp only [TableRow.admits, encodeTableWord, encode, beq_eq_false_iff_ne]
  · rw [header_full]; omega
  · rw [header_full]; omega
  · rw [header_first]; omega

end Laws.TableRows
end Sys2Proof
end

