-- ==== Sys2Proof/Laws/Sequencer.lean ====
section
/-! SUPPORT. Everything one clock edge of PMRX can do, said once: the transitions of R68 as a relation, and that `clockEdge`
answers a next state exactly by one of them. -/

namespace Sys2Proof.Machine

/-- The transitions of PMRX's step, one constructor for each way a rule can go, guards included. -/
inductive EdgeStep (p : PortIn) (s : State) : State → Prop
  | reset (hr : p.rst = true) : EdgeStep p s (resetState s)
  | idleHold (hr : p.rst = false) (hs : s.st = .idle) (hq : p.req = none) : EdgeStep p s s
  | accepted (op : Op) (d : Byte) (hr : p.rst = false) (hs : s.st = .idle)
      (hq : p.req = some { op := op.bits, data := d }) : EdgeStep p s (accept op d s)
  | flushDrop (b : Byte) (hr : p.rst = false) (hs : s.st = .flush) (hx : p.rx = some b) : EdgeStep p s s
  | flushDone (hr : p.rst = false) (hs : s.st = .flush) (hx : p.rx = none) :
      EdgeStep p s { s with st := .tx, idx := 0, tmr := 0 }
  | txError (hr : p.rst = false) (hs : s.st = .tx) (he : p.txErr = true) : EdgeStep p s (complete .transportError s)
  | txSent (op : Op) (hr : p.rst = false) (hs : s.st = .tx) (he : p.txErr = false) (ht : p.txReady = true)
      (hi : s.idx.toNat < s.cfg.cap) (hop : s.op = op.bits) : EdgeStep p s (byteSent op s)
  | txExpired (hr : p.rst = false) (hs : s.st = .tx) (he : p.txErr = false) (ht : p.txReady = false)
      (hd : s.tmr.toNat + 1 = s.cfg.timeout) : EdgeStep p s (complete .transportError s)
  | txWait (hr : p.rst = false) (hs : s.st = .tx) (he : p.txErr = false) (ht : p.txReady = false)
      (hd : s.tmr.toNat + 1 ≠ s.cfg.timeout) : EdgeStep p s s.countWait
  | rxError (hr : p.rst = false) (hs : s.st = .rxHdr ∨ s.st = .rxBody) (he : p.rxErr = true) :
      EdgeStep p s (complete .transportError s)
  | rxExpired (hr : p.rst = false) (hs : s.st = .rxHdr ∨ s.st = .rxBody) (he : p.rxErr = false) (hx : p.rx = none)
      (hd : s.tmr.toNat + 1 = s.cfg.timeout) : EdgeStep p s (complete .timeout s)
  | rxWait (hr : p.rst = false) (hs : s.st = .rxHdr ∨ s.st = .rxBody) (he : p.rxErr = false) (hx : p.rx = none)
      (hd : s.tmr.toNat + 1 ≠ s.cfg.timeout) : EdgeStep p s s.countWait
  | headerFirst (b : Byte) (hr : p.rst = false) (hs : s.st = .rxHdr) (he : p.rxErr = false) (hx : p.rx = some b)
      (hi : s.idx = 0) : EdgeStep p s (s.storeReply b).nextIndex
  | headerSecond (b : Byte) (op : Op) (hr : p.rst = false) (hs : s.st = .rxHdr) (he : p.rxErr = false) (hx : p.rx = some b)
      (hi : s.idx ≠ 0) (hc : s.idx.toNat < s.cfg.cap) (hop : s.op = op.bits) :
      EdgeStep p s (headerEnd op (s.byteAt 0) b (s.storeReply b))
  | bodyNext (b : Byte) (hr : p.rst = false) (hs : s.st = .rxBody) (he : p.rxErr = false) (hx : p.rx = some b)
      (hc : s.idx.toNat < s.cfg.cap) (hi : s.idx ≠ (s.byteAt 1).setWidth 9 + 2) :
      EdgeStep p s (s.storeReply b).nextIndex
  | bodyBadSum (b : Byte) (hr : p.rst = false) (hs : s.st = .rxBody) (he : p.rxErr = false) (hx : p.rx = some b)
      (hc : s.idx.toNat < s.cfg.cap) (hi : s.idx = (s.byteAt 1).setWidth 9 + 2) (ha : s.acc + b ≠ 0) :
      EdgeStep p s (complete .checksumError (s.storeReply b))
  | bodyDecoded (b : Byte) (op : Op) (k : Result) (w : Writes) (hr : p.rst = false) (hs : s.st = .rxBody)
      (he : p.rxErr = false) (hx : p.rx = some b) (hc : s.idx.toNat < s.cfg.cap) (hi : s.idx = (s.byteAt 1).setWidth 9 + 2)
      (ha : s.acc + b = 0) (hop : s.op = op.bits) (hd : decodeReply s.cfg op (s.storeReply b).byteAt = some (k, w)) :
      EdgeStep p s (complete k (applyWrites w { s.storeReply b with paylen := (s.storeReply b).byteAt 1 }))

theorem idleRule_next {p : PortIn} {s t : State} (hr : p.rst = false) (hs : s.st = .idle)
    (h : idleRule p s = .next t) : EdgeStep p s t := by
  unfold idleRule at h
  split at h
  · rename_i r hq
    obtain ⟨c, d⟩ := r
    rcases opcode_cases c with ⟨op, rfl⟩ | rfl
    · rw [decode_request_bits, exec_requestInstr, presentRequest, if_pos hs] at h
      cases h
      exact .accepted op d hr hs hq
    · rw [exec_decode_reserved] at h
      cases h
  · cases h
    exact .idleHold hr hs ‹_›

theorem flushRule_next {p : PortIn} {s t : State} (hr : p.rst = false) (hs : s.st = .flush)
    (h : flushRule p s = .next t) : EdgeStep p s t := by
  unfold flushRule at h
  split at h <;> cases h
  · exact .flushDrop _ hr hs ‹_›
  · exact .flushDone hr hs ‹_›

theorem txRule_next {p : PortIn} {s t : State} (hr : p.rst = false) (hs : s.st = .tx)
    (h : txRule p s = .next t) : EdgeStep p s t := by
  unfold txRule at h
  split at h
  · cases h; exact .txError hr hs ‹_›
  · rename_i he
    replace he : p.txErr = false := by simpa using he
    split at h
    · obtain ⟨hi, h⟩ := whenIndexed_next h
      obtain ⟨op, hop, h⟩ := whenOperation_next h
      cases h
      exact .txSent op hr hs he ‹_› hi hop
    · rename_i ht
      replace ht : p.txReady = false := by simpa using ht
      split at h <;> rename_i hd <;> rw [deadlineDue_iff] at hd <;> cases h
      · exact .txExpired hr hs he ht hd
      · exact .txWait hr hs he ht hd

/-- The error and deadline part of the receiver (R75, R78): if it is not one of its own transitions, a byte was taken. -/
theorem receiveWait_next {p : PortIn} {s t : State} {take : Byte → StepResult} (hr : p.rst = false)
    (hs : s.st = .rxHdr ∨ s.st = .rxBody) (h : receiveWait p s take = .next t) :
    EdgeStep p s t ∨ ∃ b, p.rxErr = false ∧ p.rx = some b ∧ take b = .next t := by
  unfold receiveWait at h
  split at h
  · cases h; exact .inl (.rxError hr hs ‹_›)
  · rename_i he
    replace he : p.rxErr = false := by simpa using he
    split at h
    · exact .inr ⟨_, he, ‹_›, h⟩
    · rename_i hx
      split at h <;> rename_i hd <;> rw [deadlineDue_iff] at hd <;> cases h
      · exact .inl (.rxExpired hr hs he hx hd)
      · exact .inl (.rxWait hr hs he hx hd)

theorem headerByte_next {p : PortIn} {s t : State} {b : Byte} (hr : p.rst = false) (hs : s.st = .rxHdr)
    (he : p.rxErr = false) (hx : p.rx = some b) (h : headerByte s b = .next t) : EdgeStep p s t := by
  obtain ⟨hc, h⟩ := whenIndexed_next h
  split at h
  · cases h; exact .headerFirst b hr hs he hx ‹_›
  · rename_i hi
    have hcl : (s.storeReply b).classifying = true := (classifying_iff _).mpr ⟨hs, hi⟩
    obtain ⟨op, hop, h⟩ := exec_decode_header_next _ _ hcl h
    cases h
    exact .headerSecond b op hr hs he hx hi hc hop

theorem bodyByte_next {p : PortIn} {s t : State} {b : Byte} (hr : p.rst = false) (hs : s.st = .rxBody)
    (he : p.rxErr = false) (hx : p.rx = some b) (h : bodyByte s b = .next t) : EdgeStep p s t := by
  obtain ⟨hc, h⟩ := whenIndexed_next h
  split at h
  · rename_i hi
    rcases finish_next h with ⟨ha, rfl⟩ | ⟨ha, op, k, w, hop, hd, rfl⟩
    · exact .bodyBadSum b hr hs he hx hc hi ha
    · exact .bodyDecoded b op k w hr hs he hx hc hi ha hop hd
  · cases h; exact .bodyNext b hr hs he hx hc ‹_›

/-- If a clock edge answers a next state, it is by one of the transitions. -/
theorem clockEdge_next {p : PortIn} {s t : State} (h : clockEdge p s = .next t) : EdgeStep p s t := by
  unfold clockEdge at h
  split at h
  · cases h; exact .reset ‹_›
  · rename_i hr
    replace hr : p.rst = false := by simpa using hr
    split at h
    · exact idleRule_next hr ‹_› h
    · exact flushRule_next hr ‹_› h
    · exact txRule_next hr ‹_› h
    · rename_i hs
      rcases receiveWait_next hr (.inl hs) h with h | ⟨b, he, hx, h⟩
      · exact h
      · exact headerByte_next hr hs he hx h
    · rename_i hs
      rcases receiveWait_next hr (.inr hs) h with h | ⟨b, he, hx, h⟩
      · exact h
      · exact bodyByte_next hr hs he hx h
    · cases h

end Sys2Proof.Machine
end

