-- ==== Sys2Proof/Tests/Slice0.lean ====
section
/-! SUPPORT. The model's own tests: the well-formedness smoke, words written out from the spec's encodings, one clock edge of
the spec's vectors (95_test_vectors.md), and for each statement with hypotheses a state and operands that meet them. -/

namespace Sys2Proof.Tests

open Sys2Proof Sys2Proof.Machine

/-! ## Well-formedness -/

theorem test_wf_refuses_ack_pair_as_other : Instr.wf (.rxHdrOther 0xA5 0xA5) = false := by decide
theorem test_wf_refuses_nack_pair_as_other : Instr.wf (.rxHdrOther 0x96 0x96) = false := by decide
theorem test_wf_refuses_resp_as_other : Instr.wf (.rxHdrOther 0x40 0x42) = false := by decide
theorem test_wf_admits_mixed_pairs :
    Instr.wf (.rxHdrOther 0xA5 0x96) = true ∧ Instr.wf (.rxHdrOther 0x96 0x40) = true := by decide

/-! ## Decoding: request words are `req_op` (R50), header words are `b0` then `b1` (R60, R61) -/

theorem test_decode_read_meas : decodeTableWord 8 0b000 = some (.readMeas 0x00) := by decide
theorem test_decode_start_meas : decodeTableWord 8 0b001 = some (.startMeas 0x00) := by decide
theorem test_decode_stop_meas : decodeTableWord 8 0b010 = some (.stopMeas 0x00) := by decide
theorem test_decode_set_coef_with_data :
    decodeBytes .req [0b011, 0x64] = .ok (.setCoef 0x64, []) := by rfl
theorem test_decode_read_coef : decodeTableWord 8 0b100 = some (.readCoef 0x00) := by decide
theorem test_decode_en_autosend : decodeTableWord 8 0b101 = some (.enAutosend 0x00) := by decide
theorem test_decode_stop_autosend : decodeTableWord 8 0b110 = some (.stopAutosend 0x00) := by decide
theorem test_decode_reserved : decodeTableWord 8 0b111 = some (.reserved 0x00) := by decide
theorem test_decode_ack : decodeTableWord 16 0b1010010110100101 = some .rxHdrAckAck := by decide
theorem test_decode_nack : decodeTableWord 16 0b1001011010010110 = some .rxHdrNackNack := by decide
theorem test_decode_resp : decodeTableWord 16 0b0100000000001101 = some (.rxHdrResp 0x0D) := by decide
theorem test_decode_push_markers : decodeTableWord 16 0x424D = some (.rxHdrOther 0x42 0x4D) := by decide
theorem test_decode_names_missing_bytes :
    decodeBytes .req [0b000] = .error .truncatedRequest ∧
    decodeBytes .rxHeader [0x40] = .error .truncatedHeader := by constructor <;> rfl

/-! ## One clock edge of the spec's vectors -/

/-- Input ports at which nothing is driven. -/
def quiet : PortIn where
  rst := false
  req := none
  txReady := false
  txErr := false
  rx := none
  rxErr := false
  bufRaddr := 0

/-- A request offered. -/
def asking (op : BitVec 3) (data : Byte) : PortIn := { quiet with req := some { op := op, data := data } }

/-- A received byte offered. -/
def offering (b : Byte) : PortIn := { quiet with rx := some b }

/-- The state after reset, but for ST, OP and IDX. -/
def stateAt (st : SeqState) (op : Op) (idx : Index) : State := { State.reset with st := st, op := op.bits, idx := idx }

/-- RX_HDR with the first header byte stored. -/
def afterHeader (op : Op) (b0 : Byte) : State :=
  { stateAt .rxHdr op 1 with buf := [(0, b0)], acc := b0 }

/-- Bytes at rising indices. -/
def cells : Nat → List Byte → Memory
  | _, [] => []
  | i, b :: bs => (i, b) :: cells (i + 1) bs

/-- RX_BODY with the given reply bytes stored. -/
def inBody (op : Op) (bs : List Byte) : State :=
  { stateAt .rxBody op (BitVec.ofNat 9 bs.length) with buf := cells 0 bs, acc := sum8 bs }

/-- The result is a next state with the property. -/
def nextWith (r : StepResult) (f : State → Bool) : Bool :=
  match r with
  | .next t => f t
  | .fault _ => false
  | .refused _ => false

/-- D-FB-10: READ_MEAS latches `req_data` and stages `68 01 04 93`. -/
theorem test_read_meas_frame :
    nextWith (clockEdge (asking 0b000 0xAB) State.reset) (fun t =>
      t.buf == [(0, 0x68), (1, 0x01), (2, 0x04), (3, 0x93)] && t.data == 0xAB && t.st == .flush) = true := by decide

/-- D-FB-2. -/
theorem test_start_meas_frame :
    nextWith (clockEdge (asking 0b001 0x00) State.reset) (fun t =>
      t.buf == [(0, 0x68), (1, 0x01), (2, 0x01), (3, 0x96)] && t.op == 0b001) = true := by decide

/-- D-FB-3. -/
theorem test_stop_meas_frame :
    nextWith (clockEdge (asking 0b010 0x00) State.reset) (fun t =>
      t.buf == [(0, 0x68), (1, 0x01), (2, 0x02), (3, 0x95)] && t.op == 0b010) = true := by decide

/-- D-FB-4. -/
theorem test_set_coef_frame :
    nextWith (clockEdge (asking 0b011 0x64) State.reset) (fun t =>
      t.buf == [(0, 0x68), (1, 0x02), (2, 0x08), (3, 0x64), (4, 0x2A)] && t.coef == 0x00) = true := by decide

/-- D-FB-6. -/
theorem test_set_coef_frame_top :
    nextWith (clockEdge (asking 0b011 0xFF) State.reset) (fun t =>
      t.buf == [(0, 0x68), (1, 0x02), (2, 0x08), (3, 0xFF), (4, 0x8F)]) = true := by decide

/-- D-FB-7. -/
theorem test_read_coef_frame :
    nextWith (clockEdge (asking 0b100 0x00) State.reset) (fun t =>
      t.buf == [(0, 0x68), (1, 0x01), (2, 0x10), (3, 0x87)] && t.op == 0b100) = true := by decide

/-- D-FB-8. -/
theorem test_en_autosend_frame :
    nextWith (clockEdge (asking 0b101 0x00) State.reset) (fun t =>
      t.buf == [(0, 0x68), (1, 0x01), (2, 0x40), (3, 0x57)] && t.op == 0b101) = true := by decide

/-- D-FB-9. -/
theorem test_stop_autosend_frame :
    nextWith (clockEdge (asking 0b110 0x00) State.reset) (fun t =>
      t.buf == [(0, 0x68), (1, 0x01), (2, 0x20), (3, 0x77)] && t.op == 0b110) = true := by decide

/-- D-FB-11. -/
theorem test_reserved_refused : clockEdge (asking 0b111 0x00) State.reset = .refused .reservedRequest := by rfl

/-- D-AK-1. -/
theorem test_ack_pair_ok :
    nextWith (clockEdge (offering 0xA5) (afterHeader .startMeas 0xA5)) (fun t =>
      t.code == 0 && t.done && t.st == .idle && t.status == 0x08) = true := by decide

/-- D-DC-2. -/
theorem test_ack_pair_to_query :
    nextWith (clockEdge (offering 0xA5) (afterHeader .readMeas 0xA5)) (fun t => t.code == 1) = true := by
  decide

/-- D-AK-2. -/
theorem test_nack_pair_rejected :
    nextWith (clockEdge (offering 0x96) (afterHeader .startMeas 0x96)) (fun t => t.code == 3) = true := by
  decide

/-- D-DC-1. -/
theorem test_nack_pair_to_query :
    nextWith (clockEdge (offering 0x96) (afterHeader .readMeas 0x96)) (fun t => t.code == 3) = true := by
  decide

/-- D-DC-3 and D-DC-5: BUF_CAP 16 takes LEN 13 and not LEN 14. -/
theorem test_resp_length_limit :
    nextWith (clockEdge (offering 0x0D) (afterHeader .readMeas 0x40)) (fun t => t.st == .rxBody && t.idx == 2) = true ∧
    nextWith (clockEdge (offering 0x0E) (afterHeader .readMeas 0x40)) (fun t =>
      t.code == 1 && t.st == .idle) = true := by decide

/-- D-AK-5. -/
theorem test_resp_to_command :
    nextWith (clockEdge (offering 0x05) (afterHeader .startMeas 0x40)) (fun t => t.code == 1) = true := by
  decide

/-- D-PR-5 and D-AK-3: a mixed pair. -/
theorem test_other_pair :
    nextWith (clockEdge (offering 0xA5) (afterHeader .readMeas 0x96)) (fun t => t.code == 1) = true ∧
    nextWith (clockEdge (offering 0x96) (afterHeader .startMeas 0xA5)) (fun t => t.code == 1) = true := by
  decide

/-- D-DE-3: the last byte of a compact reply. -/
theorem test_compact_decode :
    nextWith (clockEdge (offering 0x77) (inBody .readMeas
        [0x40, 0x0D, 0x04, 0x12, 0x34, 0x56, 0x78, 0x9A, 0xBC, 0xDE, 0xF0, 0x00, 0x00, 0x00, 0x00])) (fun t =>
      t.pm1_0 == 0x1234 && t.pm2_5 == 0x5678 && t.pm4_0 == 0x9ABC && t.pm10 == 0xDEF0 && t.pmValid && t.code == 0 &&
      t.paylen == 13) = true := by decide

/-- D-DE-6: the last byte of a standard reply, from registers that hold values. -/
theorem test_standard_decode :
    nextWith (clockEdge (offering 0x7B) { inBody .readMeas [0x40, 0x05, 0x04, 0x00, 0x14, 0x00, 0x28] with
        pm1_0 := 1, pm2_5 := 2, pm4_0 := 3, pm10 := 4, pmValid := true }) (fun t =>
      t.pm1_0 == 0 && t.pm2_5 == 20 && t.pm4_0 == 0 && t.pm10 == 40 && !t.pmValid && t.paylen == 5) = true := by decide

/-- D-DE-9: bad echo and bad sum is a ChecksumError, and PAYLEN is not written. -/
theorem test_bad_sum_before_echo :
    nextWith (clockEdge (offering 0x7B) (inBody .readMeas [0x40, 0x05, 0x10, 0x00, 0x14, 0x00, 0x28])) (fun t =>
      t.code == 4 && t.paylen == 0) = true := by decide

/-- D-CO-1 and D-CO-4. -/
theorem test_coefficient_decode :
    nextWith (clockEdge (offering 0x4A) (inBody .readCoef [0x40, 0x02, 0x10, 0x64])) (fun t =>
      t.coef == 0x64 && t.code == 0 && t.paylen == 2) = true ∧
    nextWith (clockEdge (offering 0x56) (inBody .readCoef [0x40, 0x02, 0x04, 0x64])) (fun t =>
      t.coef == 0x00 && t.code == 1 && t.paylen == 2) = true := by decide

/-- D-PR-1: `tx_err` beats `tx_ready`. -/
theorem test_tx_error_first :
    nextWith (clockEdge { quiet with txReady := true, txErr := true } (stateAt .tx .startMeas 0)) (fun t =>
      t.code == 1) = true := by decide

/-- D-TM-2 and D-PR-3: expiry with TMR = 2, and an error in the same cycle. -/
theorem test_expiry_and_error :
    nextWith (clockEdge quiet { stateAt .rxHdr .startMeas 0 with tmr := 2 }) (fun t => t.code == 2) = true ∧
    nextWith (clockEdge { quiet with rxErr := true } { stateAt .rxHdr .startMeas 0 with tmr := 2 }) (fun t =>
      t.code == 1) = true := by decide

/-- R122: a reset edge from the middle of an exchange. -/
theorem test_reset_edge :
    nextWith (clockEdge { asking 0b001 0x00 with rst := true } { afterHeader .startMeas 0xA5 with tmr := 2 }) (fun t =>
      t.st == .idle && t.acc == 0 && t.buf == [(0, 0xA5)] && t.op == 0b000) = true := by decide

/-- R9: round(0.050 × 60). -/
theorem test_recommended_timeout : Config.default.recommendedTimeout = 3 := by decide

/-- The next step runs a placed word: a request after reset, and a header pair. -/
theorem test_placed_words_run :
    nextWith (step (State.reset.withFetchWord 8 0b100)) (fun t => t.op == 0b100 && t.st == .flush) = true ∧
    nextWith (step (State.reset.withFetchWord 16 0x400D)) (fun t => t.st == .rxBody) = true := by decide

/-! ## Witnesses: for each statement with hypotheses, a state and operands that meet them, each clause at its boundary -/

/-- A reset edge away, a byte held and offered. -/
def offeringEdge (b : Byte) : Edge := { quietEdge with arrivals := [b], rxOffer := true }

/-- A state whose next edge is `e`. -/
def atEdge (e : Edge) (s : State) : State := { s with script := [e] }

theorem witness_DecodeInvertsEncode :
    Instr.wf (.setCoef 0xFF) = true ∧ Instr.wf (.rxHdrResp 0xFF) = true ∧ Instr.wf (.rxHdrOther 0xA5 0x96) = true := by
  decide

theorem witness_RequestsAreAcceptedInIdle : State.reset.st = .idle := rfl

theorem witness_AcceptanceFrame :
    State.reset.st = .idle ∧ exec (requestInstr .setCoef 0x64) State.reset = .next (accept .setCoef 0x64 State.reset) ∧
    txLen .setCoef ≤ 5 ∧ 4 < txLen .setCoef := ⟨rfl, rfl, by decide, by decide⟩

theorem witness_RequestOutsideIdleHasNoEffect : (stateAt .flush .startMeas 0).st ≠ .idle := by decide

theorem witness_BusyBlockIgnoresTheRequestPort : (stateAt .rxHdr .readMeas 1).st ≠ .idle := by decide

theorem witness_ReservedRequestIsRefused :
    State.reset.reqReady = true ∧ ReservedFires (asking 0b111 0xFF) State.reset := ⟨rfl, rfl, rfl, 0xFF, rfl⟩

theorem witness_AckKindHeaderResults :
    (afterHeader .setCoef 0xA5).st = .rxHdr ∧ (afterHeader .setCoef 0xA5).idx ≠ 0 ∧
    (afterHeader .setCoef 0xA5).op = Op.bits .setCoef ∧ kind .setCoef = .ack := by decide

theorem witness_DataKindHeaderResults :
    (afterHeader .readCoef 0x40).st = .rxHdr ∧ (afterHeader .readCoef 0x40).idx ≠ 0 ∧
    (afterHeader .readCoef 0x40).op = Op.bits .readCoef ∧ kind .readCoef = .data ∧
    (13 : Byte).toNat ≤ State.reset.cfg.cap - 3 ∧ State.reset.cfg.cap - 3 < (14 : Byte).toNat := by decide

theorem witness_HeaderOutsideItsPlaceHasNoEffect :
    (stateAt .rxBody .readMeas 2).st ≠ .rxHdr ∧ (stateAt .rxHdr .readMeas 0).idx = 0 := by decide

theorem witness_HeaderFrame :
    exec .rxHdrAckAck (afterHeader .startMeas 0xA5) = .next (complete .ok (afterHeader .startMeas 0xA5)) ∧
    exec (.rxHdrResp 13) (afterHeader .readMeas 0x40) =
      .next { afterHeader .readMeas 0x40 with st := .rxBody, idx := 2 } := ⟨rfl, rfl⟩

theorem witness_StepRunsTheDecodedInstruction_request :
    ∃ (s : State) (r : Request), s.edge.rst = false ∧ s.st = .idle ∧ s.edge.req = some r :=
  ⟨atEdge { quietEdge with req := some { op := 0b011, data := 0x64 } } State.reset, _, rfl, rfl, rfl⟩

theorem witness_StepRunsTheDecodedInstruction_header :
    ∃ (s : State) (b : Byte) (rest : List Byte), s.edge.rst = false ∧ s.st = .rxHdr ∧ s.idx ≠ 0 ∧ s.idx.toNat < s.cfg.cap ∧
      s.edge.rxErr = false ∧ s.edge.rxOffer = true ∧ heldAt s.edge s = b :: rest :=
  ⟨atEdge (offeringEdge 0xA5) (afterHeader .startMeas 0xA5), 0xA5, [], rfl, rfl, by decide, by decide, rfl, rfl, rfl⟩

theorem witness_ResetEdge_receiving :
    ∃ (s : State) (b : Byte) (rest : List Byte), s.edge.rst = true ∧ s.edge.rxOffer = true ∧
      heldAt s.edge s = b :: rest ∧ s.rxReady = true :=
  ⟨atEdge { offeringEdge 0x42 with rst := true } (afterHeader .startMeas 0xA5), 0x42, [], rfl, rfl, rfl, rfl⟩

theorem witness_ResetEdge_sending :
    ∃ s : State, s.edge.rst = true ∧ s.st = .tx ∧ s.edge.txReady = true :=
  ⟨atEdge { quietEdge with rst := true, txReady := true } (stateAt .tx .startMeas 3), rfl, rfl, rfl⟩

theorem witness_ResetAfterPowerUp :
    ∃ s : State, s = State.powerUp Config.default ⟨[0x42], []⟩ [{ offeringEdge 0x4D with rst := true }] ∧
      s.edge.rst = true := ⟨_, rfl, rfl⟩

/-- An unused encoding of ST; the reserved code in OP when a frame's byte is taken, a header is classified, a reply ends. -/
theorem witness_UnusedEncodingsStopTheBlock :
    (stateAt (.unused 2) .readMeas 0).st = .unused 2 ∧ quiet.rst = false ∧
    (let s : State := { stateAt .tx .readMeas 0 with op := 0b111 }
     s.op = 0b111 ∧ s.idx.toNat < s.cfg.cap ∧ s.st = .tx ∧ ({ quiet with txReady := true } : PortIn).txErr = false) ∧
    (let s : State := { afterHeader .readMeas 0x40 with op := 0b111 }
     s.op = 0b111 ∧ s.idx.toNat < s.cfg.cap ∧ s.st = .rxHdr ∧ s.idx ≠ 0 ∧ (offering 0x0D).rx = some 0x0D) ∧
    (let s : State := { inBody .readMeas [0x40, 0x00] with op := 0b111 }
     s.op = 0b111 ∧ s.idx.toNat < s.cfg.cap ∧ s.st = .rxBody ∧ s.idx = (s.byteAt 1).setWidth 9 + 2 ∧
       s.acc + 0xC0 = 0x00 ∧ (offering 0xC0).rx = some 0xC0 ∧ (offering 0xC0).rxErr = false) := by decide

theorem witness_IdleRule :
    State.reset.st = .idle ∧ quiet.rst = false ∧ quiet.req = none ∧
    (asking 0b110 0x01).req = some { op := Op.bits .stopAutosend, data := 0x01 } ∧
    (asking 0b111 0x01).req = some { op := 0b111, data := 0x01 } := by decide

theorem witness_FlushRule :
    (stateAt .flush .readMeas 0).st = .flush ∧ quiet.rst = false ∧ quiet.rx = none ∧
    (offering 0x42).rst = false ∧ (offering 0x42).rx = some 0x42 := by decide

theorem witness_FlushMayNeverEnd :
    (stateAt .flush .readMeas 0).st = .flush ∧
    ∀ p ∈ [offering 0x42, offering 0x4D], p.rst = false ∧ p.rx.isSome = true := by decide

/-- Every clause of the TX rule: the last byte of SET_COEF's frame, its first byte, expiry at TMR = 2, one cycle before. -/
theorem witness_TransmitRule :
    let s := stateAt .tx .setCoef 4
    s.st = .tx ∧ s.op = Op.bits .setCoef ∧ s.idx.toNat < txLen .setCoef ∧ s.idx.toNat = txLen .setCoef - 1 ∧ quiet.rst = false ∧
    (stateAt .tx .setCoef 0).idx.toNat ≠ txLen .setCoef - 1 ∧
    ({ quiet with txErr := true } : PortIn).txErr = true ∧ ({ quiet with txReady := true } : PortIn).txReady = true ∧
    quiet.txErr = false ∧ quiet.txReady = false ∧
    ({ s with tmr := 2 } : State).tmr.toNat = s.cfg.timeout - 1 ∧
    ({ s with tmr := 1 } : State).tmr.toNat ≠ s.cfg.timeout - 1 := by decide

theorem witness_ReceiveErrorAndDeadline :
    let s := stateAt .rxBody .readMeas 2
    (s.st = .rxHdr ∨ s.st = .rxBody) ∧ quiet.rst = false ∧ ({ quiet with rxErr := true } : PortIn).rxErr = true ∧
    quiet.rxErr = false ∧ quiet.rx = none ∧ ({ s with tmr := 2 } : State).tmr.toNat = s.cfg.timeout - 1 ∧
    ({ s with tmr := 1 } : State).tmr.toNat ≠ s.cfg.timeout - 1 := by decide

theorem witness_HeaderBytes_first :
    (offering 0x40).rst = false ∧ (stateAt .rxHdr .readMeas 0).st = .rxHdr ∧ (offering 0x40).rxErr = false ∧
    (offering 0x40).rx = some 0x40 ∧ (stateAt .rxHdr .readMeas 0).idx = 0 := by decide

/-- The second byte, for each row of the classification. -/
theorem witness_HeaderBytes_second :
    (∀ op b0, (afterHeader op b0).st = .rxHdr ∧ (afterHeader op b0).idx = 1 ∧ (afterHeader op b0).op = op.bits ∧
      (afterHeader op b0).byteAt 0 = b0) ∧
    kind .enAutosend = .ack ∧ kind .readCoef = .data ∧
    ¬((0xA5 : Byte) = 0xA5 ∧ (0x96 : Byte) = 0xA5) ∧ ¬((0xA5 : Byte) = 0x96 ∧ (0x96 : Byte) = 0x96) ∧
    (14 : Byte).toNat > State.reset.cfg.cap - 3 ∧ (13 : Byte).toNat ≤ State.reset.cfg.cap - 3 ∧ (0xA5 : Byte) ≠ 0x40 :=
  ⟨fun _ _ => ⟨rfl, rfl, rfl, rfl⟩, by decide⟩

/-- A body state of the invariant. -/
theorem inv_inBody {op : Op} {bs : List Byte} (hop : kind op = .data)
    (h : (inBody op bs).byteAt 0 = 0x40 ∧ (inBody op bs).buf.wf = true ∧ (inBody op bs).buf.within 16 = true ∧
      2 ≤ (inBody op bs).idx.toNat ∧ (inBody op bs).idx.toNat ≤ ((inBody op bs).byteAt 1).toNat + 2 ∧
      ((inBody op bs).byteAt 1).toNat + 3 ≤ 16) : Inv (inBody op bs) where
  bufCanonical := h.2.1
  bufWithin := h.2.2.1
  index := ⟨h.2.2.2.1, h.2.2.2.2.1⟩
  body := fun _ => ⟨fun _ ho => by rw [← Op.bits_injective ho]; exact hop, h.1, h.2.2.2.2.2⟩
  deadline := by show (0 : Nat) < 3; decide
  doneClear := fun _ => rfl
  opLatched := op.bits_ne_reserved
  codeLegal := by show (0 : Nat) ≤ 4; decide

/-- A compact reply with its checksum byte to come: the largest index a buffer of 16 bytes has. -/
def compactBody : State :=
  inBody .readMeas [0x40, 0x0D, 0x04, 0x12, 0x34, 0x56, 0x78, 0x9A, 0xBC, 0xDE, 0xF0, 0x00, 0x00, 0x00, 0x00]

/-- A standard reply, one with a wrong length and one with a wrong echo, each with its checksum byte to come. -/
def standardBody : State := inBody .readMeas [0x40, 0x05, 0x04, 0x00, 0x14, 0x00, 0x28]
def emptyBody : State := inBody .readMeas [0x40, 0x00]
def strangeEchoBody : State := inBody .readMeas [0x40, 0x05, 0x10, 0x00, 0x14, 0x00, 0x28]

/-- A coefficient reply, one with a wrong length and one with a wrong echo, each with its checksum byte to come. -/
def coefBody : State := inBody .readCoef [0x40, 0x02, 0x10, 0x64]
def longCoefBody : State := inBody .readCoef [0x40, 0x03, 0x10, 0x64, 0x00]
def strangeCoefBody : State := inBody .readCoef [0x40, 0x02, 0x04, 0x64]

theorem inv_compactBody : Inv compactBody := inv_inBody rfl (by decide)
theorem inv_standardBody : Inv standardBody := inv_inBody rfl (by decide)
theorem inv_emptyBody : Inv emptyBody := inv_inBody rfl (by decide)
theorem inv_strangeEchoBody : Inv strangeEchoBody := inv_inBody rfl (by decide)
theorem inv_coefBody : Inv coefBody := inv_inBody rfl (by decide)
theorem inv_longCoefBody : Inv longCoefBody := inv_inBody rfl (by decide)
theorem inv_strangeCoefBody : Inv strangeCoefBody := inv_inBody rfl (by decide)

theorem witness_BodyBytes :
    (Inv (inBody .readMeas [0x40, 0x0D]) ∧ (inBody .readMeas [0x40, 0x0D]).st = .rxBody ∧
      (inBody .readMeas [0x40, 0x0D]).idx.toNat < ((inBody .readMeas [0x40, 0x0D]).byteAt 1).toNat + 2) ∧
    (Inv compactBody ∧ compactBody.st = .rxBody ∧ compactBody.idx.toNat = (compactBody.byteAt 1).toNat + 2 ∧
      compactBody.acc + 0x78 ≠ 0x00 ∧ compactBody.acc + 0x77 = 0x00) ∧
    (offering 0x77).rst = false ∧ (offering 0x77).rxErr = false ∧ (offering 0x77).rx = some 0x77 :=
  ⟨⟨inv_inBody rfl (by decide), by decide⟩, ⟨inv_compactBody, by decide⟩, by decide⟩

theorem witness_MeasurementDecode :
    (Inv compactBody ∧ compactBody.st = .rxBody ∧ compactBody.op = Op.bits .readMeas ∧
      compactBody.idx.toNat = (compactBody.byteAt 1).toNat + 2 ∧ compactBody.acc + 0x77 = 0x00 ∧
      compactBody.byteAt 1 = 13 ∧ compactBody.byteAt 2 = 0x04) ∧
    (Inv standardBody ∧ standardBody.idx.toNat = (standardBody.byteAt 1).toNat + 2 ∧ standardBody.acc + 0x7B = 0x00 ∧
      standardBody.byteAt 1 = 5 ∧ standardBody.byteAt 2 = 0x04) ∧
    (Inv emptyBody ∧ emptyBody.idx.toNat = (emptyBody.byteAt 1).toNat + 2 ∧ emptyBody.acc + 0xC0 = 0x00 ∧
      emptyBody.byteAt 1 ≠ 13 ∧ emptyBody.byteAt 1 ≠ 5) ∧
    (Inv strangeEchoBody ∧ strangeEchoBody.idx.toNat = (strangeEchoBody.byteAt 1).toNat + 2 ∧
      strangeEchoBody.acc + 0x6F = 0x00 ∧ strangeEchoBody.byteAt 2 ≠ 0x04) ∧
    (∀ b, (offering b).rst = false ∧ (offering b).rxErr = false ∧ (offering b).rx = some b) :=
  ⟨⟨inv_compactBody, by decide⟩, ⟨inv_standardBody, by decide⟩, ⟨inv_emptyBody, by decide⟩,
    ⟨inv_strangeEchoBody, by decide⟩, fun _ => ⟨rfl, rfl, rfl⟩⟩

theorem witness_CoefficientDecode :
    (Inv coefBody ∧ coefBody.st = .rxBody ∧ coefBody.op = Op.bits .readCoef ∧
      coefBody.idx.toNat = (coefBody.byteAt 1).toNat + 2 ∧ coefBody.acc + 0x4A = 0x00 ∧
      coefBody.byteAt 1 = 2 ∧ coefBody.byteAt 2 = coefBody.cfg.cmdReadCoef) ∧
    (Inv longCoefBody ∧ longCoefBody.idx.toNat = (longCoefBody.byteAt 1).toNat + 2 ∧ longCoefBody.acc + 0x49 = 0x00 ∧
      longCoefBody.byteAt 1 ≠ 2) ∧
    (Inv strangeCoefBody ∧ strangeCoefBody.idx.toNat = (strangeCoefBody.byteAt 1).toNat + 2 ∧
      strangeCoefBody.acc + 0x56 = 0x00 ∧ strangeCoefBody.byteAt 2 ≠ strangeCoefBody.cfg.cmdReadCoef) :=
  ⟨⟨inv_coefBody, by decide⟩, ⟨inv_longCoefBody, by decide⟩, ⟨inv_strangeCoefBody, by decide⟩⟩

theorem witness_WaitExpiresAfterTimeoutCycles :
    let s := stateAt .rxHdr .startMeas 0
    let u := stateAt .tx .startMeas 0
    s.tmr = 0 ∧ s.st = .rxHdr ∧ u.tmr = 0 ∧ u.st = .tx ∧ (∀ p ∈ [quiet, quiet, quiet], RxQuiet p ∧ TxStalls p) ∧
    [quiet, quiet].length < s.cfg.timeout ∧ [quiet, quiet, quiet].length = s.cfg.timeout :=
  ⟨rfl, rfl, rfl, rfl, by simp [RxQuiet, TxStalls, quiet], by decide, by decide⟩

/-- A step from a state that meets every invariant: the last byte of a compact reply crosses the edge. -/
theorem witness_invariant_step :
    ∃ s t : State, Inv s ∧ AccIsReplySum s ∧ FrameStaged s ∧ s.st = .rxBody ∧ step s = .next t ∧ t.code = 0 :=
  ⟨atEdge (offeringEdge 0x77) compactBody, _,
    ⟨inv_compactBody.1, inv_compactBody.2, inv_compactBody.3, inv_compactBody.4, inv_compactBody.5, inv_compactBody.6,
      inv_compactBody.7, inv_compactBody.8⟩,
    fun _ => by decide, fun h => by rcases h with h | h <;> exact absurd h (by decide), rfl, rfl, rfl⟩

/-- A step from a state in TX whose frame is staged. -/
theorem witness_StepKeepsFrameStaged :
    ∃ s t : State, FrameStaged s ∧ s.st = .tx ∧ step s = .next t ∧ t.st = .tx :=
  ⟨atEdge { quietEdge with txReady := true }
      { stateAt .tx .startMeas 0 with buf := [(0, 0x68), (1, 0x01), (2, 0x01), (3, 0x96)] },
    _, fun _ op ho => by rw [← Op.bits_injective (a := .startMeas) ho]; decide, rfl, rfl, rfl⟩

/-- A step from a state whose PM_VALID is 0, to one whose PM_VALID is 0. -/
theorem witness_StepKeepsInvalidPairZero :
    ∃ s t : State, InvalidPairZero s ∧ step s = .next t ∧ t.pm2_5 = 20 ∧ t.pmValid = false :=
  ⟨atEdge (offeringEdge 0x7B) standardBody, _, fun _ => ⟨rfl, rfl⟩, rfl, rfl, rfl⟩

theorem witness_StepIsTotalButForTheReservedRequest : Inv compactBody := inv_compactBody

/-- An edge that changes PM2_5 and PAYLEN, and one that changes COEF. -/
theorem witness_ResultsChangeOnlyByTheirCompletion :
    (∃ t, clockEdge (offering 0x77) compactBody = .next t ∧ t.pm2_5 ≠ compactBody.pm2_5 ∧ t.paylen ≠ compactBody.paylen) ∧
    (∃ t, clockEdge (offering 0x4A) coefBody = .next t ∧ t.coef ≠ coefBody.coef) :=
  ⟨⟨_, rfl, by decide, by decide⟩, ⟨_, rfl, by decide⟩⟩

/-- An edge that changes CODE and sets DONE, and one that clears DONE and changes OP and DATA. -/
theorem witness_StatusAndLatchesChangeOnlyAtTheirEvents :
    (∃ t, clockEdge (offering 0x78) compactBody = .next t ∧ t.code ≠ compactBody.code ∧ t.done = true) ∧
    (∃ t, clockEdge (asking 0b011 0x64) { State.reset with done := true } = .next t ∧ t.done = false ∧
      t.op ≠ State.reset.op ∧ t.data ≠ State.reset.data) :=
  ⟨⟨_, rfl, by decide, rfl⟩, ⟨_, rfl, rfl, by decide, by decide⟩⟩

/-- An edge at which the builder changes a byte of BUF, and one at which the receiver does. -/
theorem witness_OnlyBuilderAndReceiverWriteTheBuffer :
    (∃ t, clockEdge (asking 0b001 0x00) { State.reset with buf := [(0, 0xA5)] } = .next t ∧
      t.byteAt 0 ≠ ({ State.reset with buf := [(0, 0xA5)] } : State).byteAt 0) ∧
    (∃ t, clockEdge (offering 0x40) { stateAt .rxHdr .readMeas 0 with buf := [(0, 0x68)] } = .next t ∧
      t.byteAt 0 ≠ ({ stateAt .rxHdr .readMeas 0 with buf := [(0, 0x68)] } : State).byteAt 0) :=
  ⟨⟨_, rfl, by decide⟩, ⟨_, rfl, by decide⟩⟩

theorem witness_SequencerFollowsItsPath :
    (∃ t, clockEdge (asking 0b001 0x00) State.reset = .next t ∧ t.st = .flush) ∧
    (∃ t, clockEdge quiet (stateAt .flush .startMeas 0) = .next t ∧ t.st = .tx) ∧
    (∃ t, clockEdge { quiet with txReady := true } (stateAt .tx .startMeas 3) = .next t ∧ t.st = .rxHdr) ∧
    (∃ t, clockEdge (offering 0x0D) (afterHeader .readMeas 0x40) = .next t ∧ t.st = .rxBody) ∧
    (∃ t, clockEdge (offering 0x77) compactBody = .next t ∧ t.st = .idle) :=
  ⟨⟨_, rfl, rfl⟩, ⟨_, rfl, rfl⟩, ⟨_, rfl, rfl⟩, ⟨_, rfl, rfl⟩, ⟨_, rfl, rfl⟩⟩

theorem witness_StepNeverWritesTheParameters :
    ∃ t, step (atEdge (offeringEdge 0x4A) coefBody) = .next t ∧ t.coef = 0x64 := ⟨_, rfl, rfl⟩

/-- Nothing offered, an offer with nothing held, a byte that leaves, a byte that stays while TX sends and one handed over. -/
theorem witness_TransportKeepsByteOrder :
    (∃ t, step (atEdge { quietEdge with arrivals := [0x42] } State.reset) = .next t ∧ t.link.held = [0x42]) ∧
    (∃ t, step (atEdge { quietEdge with rxOffer := true } State.reset) = .next t ∧ t.link.held = []) ∧
    (∃ t, step (atEdge (offeringEdge 0x4A) coefBody) = .next t ∧ t.link.held = []) ∧
    (∃ t, step (atEdge { offeringEdge 0x42 with txReady := true }
        { stateAt .tx .startMeas 0 with buf := [(0, 0x68)] }) = .next t ∧
      t.link.held = [0x42] ∧ t.link.sent = [0x68]) :=
  ⟨⟨_, rfl, rfl⟩, ⟨_, rfl, rfl⟩, ⟨_, rfl, rfl⟩, ⟨_, rfl, rfl, rfl⟩⟩

theorem witness_HandshakePortsFollowTheSequencer :
    (stateAt .tx .startMeas 0).st = .tx ∧ State.reset.st ≠ .tx := by decide

theorem witness_BufferReadPort :
    (15 : Index).toNat < State.reset.cfg.cap ∧ State.reset.cfg.cap ≤ (16 : Index).toNat := by decide

/-- One byte changed, two changes that cancel (D-CK-5), a reordering (D-CK-6). -/
theorem witness_ChecksumLaws :
    (0 < [0x40, 0x00, 0xC0].length ∧ sum8 [0x40, 0x00, 0xC0] = 0x00 ∧ (0x42 : Byte) ≠ 0x40) ∧
    sum8 (List.zipWith (· - ·) [0x15, 0x00, 0x27] [0x14, 0x00, 0x28]) = 0x00 ∧
    List.Perm [0x00, 0x14] [(0x14 : Byte), 0x00] := ⟨by decide, by decide, List.Perm.swap _ _ _⟩

theorem witness_IndexArithmeticNeverWraps : Inv compactBody ∧ compactBody.st = .rxBody ∧ compactBody.idx.toNat + 1 = 16 :=
  ⟨inv_compactBody, by decide⟩

/-- The inputs of the request of an operation with a four-byte frame, every byte taken at once. -/
theorem plays_request (op : Op) (c : BitVec 3) (hc : c = op.bits) (hl : txLen op = 4) : PlaysRequest 3 op 0x00
    (asking c 0x00 :: ([quiet] ++ (List.replicate 4 [{ quiet with txReady := true }]).flatten)) :=
  ⟨asking c 0x00, [quiet], List.replicate 4 [{ quiet with txReady := true }], rfl, ⟨rfl, by rw [hc]; rfl⟩,
    ⟨[], quiet, rfl, by simp, rfl, rfl⟩, by rw [hl]; rfl,
    fun w hw => by
      rw [List.eq_of_mem_replicate hw]
      exact ⟨[], _, rfl, by decide, by simp, rfl, rfl, rfl⟩⟩

/-- D-AK-9: the second reply byte comes in the last allowed cycle; a byte after it is left over. -/
theorem witness_ExchangeFollowsTheTransactionView :
    ∃ (consumed : List RxEvent) (e : ExchangeEnd) (request reply : List PortIn), State.reset.st = .idle ∧
      exchangeOutcome State.reset.cfg .startMeas (consumed ++ e.rest) = some e ∧ e.rest = [.byte 0x99] ∧ e.kind = .ok ∧
      PlaysRequest State.reset.cfg.timeout .startMeas 0x00 request ∧ PlaysReply State.reset.cfg.timeout consumed reply :=
  ⟨[.byte 0xA5, .byte 0xA5], ⟨.ok, none, .none, [.byte 0x99]⟩, _, [offering 0xA5, quiet, quiet, offering 0xA5],
    rfl, rfl, rfl, rfl, plays_request .startMeas 0b001 rfl rfl,
    [[offering 0xA5], [quiet, quiet, offering 0xA5]], rfl,
    .cons ⟨[], offering 0xA5, rfl, by decide, by simp, rfl, rfl, rfl⟩
      (.cons ⟨[quiet, quiet], offering 0xA5, rfl, by decide, by simp [RxQuiet, quiet], rfl, rfl, rfl⟩ .nil)⟩

/-- A byte offered at once. -/
theorem plays_byte (b : Byte) : Plays 3 (.byte b) [offering b] := ⟨[], offering b, rfl, by decide, by simp, rfl, rfl, rfl⟩

/-- D-CO-1: a query's reply, whose outcome writes COEF and PAYLEN. -/
theorem witness_exchange_of_a_query :
    ∃ (consumed : List RxEvent) (e : ExchangeEnd) (request reply : List PortIn), State.reset.st = .idle ∧
      exchangeOutcome State.reset.cfg .readCoef (consumed ++ e.rest) = some e ∧ e.kind = .ok ∧ e.paylen = some 0x02 ∧
      e.writes = .coefficient 0x64 ∧
      PlaysRequest State.reset.cfg.timeout .readCoef 0x00 request ∧ PlaysReply State.reset.cfg.timeout consumed reply :=
  ⟨[.byte 0x40, .byte 0x02, .byte 0x10, .byte 0x64, .byte 0x4A], ⟨.ok, some 0x02, .coefficient 0x64, []⟩, _, _,
    rfl, rfl, rfl, rfl, rfl, plays_request .readCoef 0b100 rfl rfl,
    [[offering 0x40], [offering 0x02], [offering 0x10], [offering 0x64], [offering 0x4A]], rfl,
    .cons (plays_byte _) (.cons (plays_byte _) (.cons (plays_byte _) (.cons (plays_byte _) (.cons (plays_byte _) .nil))))⟩

/-- D-DC-8: a late byte; and an error offered with a byte in the last allowed cycle. -/
theorem witness_exchange_late_and_error :
    (∃ (e : ExchangeEnd) (request reply : List PortIn),
      exchangeOutcome State.reset.cfg .readMeas ([.byte 0x40, .late] ++ e.rest) = some e ∧ e.kind = .timeout ∧
      PlaysRequest State.reset.cfg.timeout .readMeas 0x00 request ∧
      PlaysReply State.reset.cfg.timeout [.byte 0x40, .late] reply) ∧
    (∃ (e : ExchangeEnd) (request reply : List PortIn),
      exchangeOutcome State.reset.cfg .readMeas ([.byte 0x40, .err] ++ e.rest) = some e ∧ e.kind = .transportError ∧
      PlaysRequest State.reset.cfg.timeout .readMeas 0x00 request ∧
      PlaysReply State.reset.cfg.timeout [.byte 0x40, .err] reply) :=
  ⟨⟨⟨.timeout, none, .none, []⟩, _, _, rfl, rfl, plays_request .readMeas 0b000 rfl rfl,
      [[offering 0x40], [quiet, quiet, quiet]], rfl,
      .cons (plays_byte _) (.cons ⟨rfl, by simp [RxQuiet, quiet]⟩ .nil)⟩,
    ⟨⟨.transportError, none, .none, []⟩, _, _, rfl, rfl, plays_request .readMeas 0b000 rfl rfl,
      [[offering 0x40], [quiet, quiet, { offering 0x0D with rxErr := true }]], rfl,
      .cons (plays_byte _) (.cons ⟨[quiet, quiet], _, rfl, by decide, by simp [RxQuiet, quiet], rfl, rfl⟩ .nil)⟩⟩

theorem witness_ExchangeEndsWithinItsBound :
    ∃ (a : PortIn) (flushing ps : List PortIn), Inv State.reset ∧ State.reset.st = .idle ∧ Accepts .setCoef 0x64 a ∧
      Flushes flushing ∧ (∀ p ∈ ps, p.rst = false) ∧
      ps.length = txLen .setCoef * State.reset.cfg.timeout + maxReplyBytes State.reset.cfg .setCoef * State.reset.cfg.timeout :=
  ⟨asking 0b011 0x64, [offering 0x42, quiet], List.replicate 21 quiet,
    ⟨rfl, rfl, rfl, fun h => absurd h (by decide), by decide, fun h => absurd rfl h, by decide, by decide⟩, rfl, ⟨rfl, rfl⟩,
    ⟨[offering 0x42], quiet, rfl, by simp [offering, quiet], rfl, rfl⟩,
    fun p hp => by rw [List.eq_of_mem_replicate hp]; rfl, rfl⟩

/-- SET_COEF with two stale bytes to flush, one held and one arriving, and an offer with nothing held to end the flush; every
TX byte taken at once. -/
theorem witness_RequestFrameCrossesTheWire :
    ∃ (s : State) (a : Edge) (flushing : List Edge) (tx : List (List Edge)) (rest : List Edge), s.st = .idle ∧
      s.script = a :: (flushing ++ (tx.flatten ++ rest)) ∧ a.rst = false ∧
      a.req = some { op := Op.bits .setCoef, data := 0x64 } ∧ FlushEdges (linkAfter a s).held flushing ∧
      tx.length = txLen .setCoef ∧ ∀ w ∈ tx, TakeEdges s.cfg.timeout w := by
  let a : Edge := { quietEdge with req := some { op := Op.bits .setCoef, data := 0x64 } }
  let offer : Edge := { quietEdge with rxOffer := true }
  let tx : List (List Edge) := List.replicate 5 [{ quietEdge with txReady := true }]
  have taken : TakeEdges 3 [{ quietEdge with txReady := true }] := ⟨[], _, rfl, by decide, by simp, rfl, rfl, rfl⟩
  exact ⟨{ State.reset with
      link := { held := [0x42], sent := [] }, script := a :: ([offer, offeringEdge 0x4D, offer] ++ (tx.flatten ++ [])) },
    a, [offer, offeringEdge 0x4D, offer], tx, [], rfl, rfl, rfl, rfl, ⟨rfl, rfl, rfl, rfl⟩, rfl,
    fun w hw => by rw [List.eq_of_mem_replicate hw]; exact taken⟩

end Sys2Proof.Tests
end

section
/-! SUPPORT. What the transitions do to the registers, said once for each group of them, and the environment left out of it. -/

namespace Sys2Proof.Machine

/-- A step of the machine is a transition on the ports its edge makes, from the state with the environment moved on. -/
theorem step_next {s t : State} (h : step s = .next t) : EdgeStep (portsIn s.edge s) s.afterEdge t := clockEdge_next h

/-- What the byte handed over does: the last one starts the reply's header, any other moves IDX on (R73, R74). -/
theorem byteSent_cases (op : Op) (s : State) :
    (s.idx.toNat + 1 = txLen op ∧ byteSent op s = { s with st := .rxHdr, idx := 0, acc := 0x00, tmr := 0 }) ∨
    (s.idx.toNat + 1 ≠ txLen op ∧ byteSent op s = { s with idx := s.idx + 1, tmr := 0 }) := by
  by_cases h : s.idx.toNat + 1 = txLen op
  · exact .inl ⟨h, if_pos h⟩
  · exact .inr ⟨h, if_neg h⟩

/-- The only transition of a reset edge is the reset (R120). -/
theorem EdgeStep.eq_resetState {p : PortIn} {s t : State} (h : EdgeStep p s t) (hr : p.rst = true) : t = resetState s := by
  cases h with
  | reset => rfl
  | _ => simp_all

/-! ## The parameters -/

theorem byteSent_cfg (op : Op) (s : State) : (byteSent op s).cfg = s.cfg := by
  rcases byteSent_cases op s with ⟨_, e⟩ | ⟨_, e⟩ <;> rw [e]

theorem headerEnd_cfg (op : Op) (b0 b1 : Byte) (s : State) : (headerEnd op b0 b1 s).cfg = s.cfg := by
  rcases headerEnd_cases op b0 b1 s with ⟨k, e⟩ | ⟨_, _, _, e⟩ <;> rw [e]
  exact complete_cfg k s

/-- No transition writes the parameters. -/
theorem EdgeStep.cfg_eq {p : PortIn} {s t : State} (h : EdgeStep p s t) : t.cfg = s.cfg := by
  cases h with
  | txSent op => exact byteSent_cfg op s
  | headerSecond b op => exact headerEnd_cfg op _ b _
  | bodyDecoded b op k w => simp
  | _ => rfl

/-! ## The status and the latched request -/

/-- CODE, DONE, OP and DATA are the same in both states. -/
structure SameStatus (s t : State) : Prop where
  code : t.code = s.code
  done : t.done = s.done
  op : t.op = s.op
  data : t.data = s.data

/-- An edge without reset keeps the status and the latches and ends no exchange, or accepts a request in IDLE, or completes
an exchange (R17, R23, R25, R109). -/
theorem EdgeStep.status_cases {p : PortIn} {s t : State} (h : EdgeStep p s t) (hr : p.rst = false) :
    (SameStatus s t ∧ (t.st = .idle → s.st = .idle)) ∨
    (∃ op d, s.st = .idle ∧ p.req = some { op := op.bits, data := d } ∧ t = accept op d s) ∨
    (s.st ≠ .idle ∧ ∃ k u, u.op = s.op ∧ u.data = s.data ∧ t = complete k u) := by
  have receiving : s.st = .rxHdr ∨ s.st = .rxBody → s.st ≠ .idle := by rintro (hs | hs) <;> simp [hs]
  cases h with
  | reset hrst => simp [hr] at hrst
  | idleHold | flushDrop | txWait | rxWait | headerFirst | bodyNext => exact .inl ⟨⟨rfl, rfl, rfl, rfl⟩, id⟩
  | accepted op d _ hs hq => exact .inr (.inl ⟨op, d, hs, hq, rfl⟩)
  | flushDone => exact .inl ⟨⟨rfl, rfl, rfl, rfl⟩, by simp⟩
  | txError _ hs | txExpired _ hs => exact .inr (.inr ⟨by simp [hs], _, s, rfl, rfl, rfl⟩)
  | rxError _ hs | rxExpired _ hs => exact .inr (.inr ⟨receiving hs, _, s, rfl, rfl, rfl⟩)
  | txSent op _ hs =>
    rcases byteSent_cases op s with ⟨_, e⟩ | ⟨_, e⟩ <;> rw [e]
    · exact .inl ⟨⟨rfl, rfl, rfl, rfl⟩, by simp⟩
    · exact .inl ⟨⟨rfl, rfl, rfl, rfl⟩, id⟩
  | headerSecond b op _ hs =>
    rcases headerEnd_cases op (s.byteAt 0) b (s.storeReply b) with ⟨k, e⟩ | ⟨_, _, _, e⟩ <;> rw [e]
    · exact .inr (.inr ⟨receiving (.inl hs), k, s.storeReply b, rfl, rfl, rfl⟩)
    · exact .inl ⟨⟨rfl, rfl, rfl, rfl⟩, by simp⟩
  | bodyBadSum b _ hs => exact .inr (.inr ⟨receiving (.inr hs), _, s.storeReply b, rfl, rfl, rfl⟩)
  | bodyDecoded b op k w _ hs => exact .inr (.inr ⟨receiving (.inr hs), k, _, by simp, by simp, rfl⟩)

/-- A completed exchange is a completion in the statements' sense. -/
theorem completes_complete {s : State} (hs : s.st ≠ .idle) (k : Result) (u : State) : Completes s (complete k u) :=
  ⟨hs, rfl, rfl⟩

/-! ## The sequencer's state -/

/-- Which ST follows which at an edge without reset: it stays, moves on by one, or falls back to IDLE (R16). -/
theorem EdgeStep.st_cases {p : PortIn} {s t : State} (h : EdgeStep p s t) (hr : p.rst = false) :
    t.st = s.st ∨ (s.st = .idle ∧ t.st = .flush) ∨ (s.st = .flush ∧ t.st = .tx) ∨ (s.st = .tx ∧ t.st = .rxHdr) ∨
    (s.st = .rxHdr ∧ t.st = .rxBody) ∨ ((s.st = .tx ∨ s.st = .rxHdr ∨ s.st = .rxBody) ∧ t.st = .idle) := by
  cases h with
  | reset hrst => simp [hr] at hrst
  | idleHold | flushDrop | txWait | rxWait | headerFirst | bodyNext => exact .inl rfl
  | accepted _ _ _ hs => simp [hs]
  | flushDone _ hs => simp [hs]
  | txError _ hs | txExpired _ hs => simp [hs]
  | rxError _ hs | rxExpired _ hs => rcases hs with hs | hs <;> simp [hs]
  | txSent op _ hs => rcases byteSent_cases op s with ⟨_, e⟩ | ⟨_, e⟩ <;> simp [e, hs]
  | headerSecond b op _ hs =>
    rcases headerEnd_cases op (s.byteAt 0) b (s.storeReply b) with ⟨k, e⟩ | ⟨_, _, _, e⟩ <;> simp [e, hs]
  | bodyBadSum _ _ hs | bodyDecoded _ _ _ _ _ hs => simp [hs]

/-! ## The result registers -/

/-- The concentrations, PM_VALID, COEF and PAYLEN are the same in both states. -/
structure SameResults (s t : State) : Prop where
  pm : (t.pm1_0, t.pm2_5, t.pm4_0, t.pm10, t.pmValid) = (s.pm1_0, s.pm2_5, s.pm4_0, s.pm10, s.pmValid)
  coef : t.coef = s.coef
  paylen : t.paylen = s.paylen

/-- The state a reply's last byte leaves when its sum is good and its decode says `k` and `w` (R79, R80). -/
def decodedEnd (b : Byte) (k : Result) (w : Writes) (s : State) : State :=
  complete k (applyWrites w { s.storeReply b with paylen := (s.storeReply b).byteAt 1 })

/-- An edge without reset keeps the result registers, or decodes a whole reply (R26 to R29). -/
theorem EdgeStep.results_cases {p : PortIn} {s t : State} (h : EdgeStep p s t) (hr : p.rst = false) :
    SameResults s t ∨ ∃ b op k w, s.st = .rxBody ∧ s.op = op.bits ∧
      decodeReply s.cfg op (s.storeReply b).byteAt = some (k, w) ∧ t = decodedEnd b k w s := by
  cases h with
  | reset hrst => simp [hr] at hrst
  | txSent op => rcases byteSent_cases op s with ⟨_, e⟩ | ⟨_, e⟩ <;> rw [e] <;> exact .inl ⟨rfl, rfl, rfl⟩
  | headerSecond b op =>
    rcases headerEnd_cases op (s.byteAt 0) b (s.storeReply b) with ⟨k, e⟩ | ⟨_, _, _, e⟩ <;> rw [e] <;>
      exact .inl ⟨rfl, rfl, rfl⟩
  | bodyDecoded b op k w _ hs _ _ _ _ _ hop hd => exact .inr ⟨b, op, k, w, hs, hop, hd, rfl⟩
  | _ => exact .inl ⟨rfl, rfl, rfl⟩

/-- Every transition keeps the invalid pair zeroed (R27): a standard reply's decode zeroes it with PM_VALID. -/
theorem EdgeStep.keeps_invalidPairZero {p : PortIn} {s t : State} (h : EdgeStep p s t) (hz : InvalidPairZero s) :
    InvalidPairZero t := by
  by_cases hr : p.rst = true
  · rw [h.eq_resetState hr]
    exact fun _ => ⟨rfl, rfl⟩
  · rcases h.results_cases (by simpa using hr) with ⟨hpm, -, -⟩ | ⟨b, op, k, w, -, -, hd, rfl⟩
    · simp only [Prod.mk.injEq] at hpm
      obtain ⟨h1, -, h4, -, hv⟩ := hpm
      rwa [InvalidPairZero, h1, h4, hv]
    · rcases decodeReply_cases hd with ⟨-, -, _, _, _, _, v, rfl, hzero⟩ | ⟨-, -, v, rfl⟩ | ⟨-, rfl⟩
      · exact hzero
      · exact hz
      · exact hz

/-! ## The sequencer's invariant -/

/-- The invariant speaks of PMRX alone: the environment's move keeps it. -/
theorem Inv.after_environment {s : State} (h : Inv s) : Inv s.afterEdge :=
  { h with }

theorem Inv.after_resetState {s : State} (h : Inv s) : Inv (resetState s) := { h with
  index := rfl
  body := nofun
  deadline := Config.timeout_pos s.cfg
  doneClear := fun hs => absurd rfl hs
  opLatched := by simp
  codeLegal := by simp }

theorem Inv.after_complete {s : State} (h : Inv s) (k : Result) : Inv (complete k s) := { h with
  index := rfl
  body := nofun
  deadline := Config.timeout_pos s.cfg
  doneClear := fun hs => absurd rfl hs
  codeLegal := k.bits_le }

/-- The decode's writes touch nothing the invariant speaks of. -/
theorem Inv.after_applyWrites {s : State} (h : Inv s) (w : Writes) : Inv (applyWrites w s) := by
  cases w <;> exact { h with }

theorem Inv.after_setPaylen {s : State} (h : Inv s) (v : Byte) : Inv { s with paylen := v } :=
  { h with }

theorem Inv.idx_of_idle {s : State} (h : Inv s) (hs : s.st = .idle) : s.idx = 0 := by
  have hi := h.index
  rwa [IndexInPlace, hs] at hi

theorem Inv.idx_of_tx {s : State} (h : Inv s) (hs : s.st = .tx) {op : Op} (hop : s.op = op.bits) :
    s.idx.toNat < txLen op := by
  have hi := h.index
  rw [IndexInPlace, hs] at hi
  exact hi op hop

theorem Inv.idx_of_rxHdr {s : State} (h : Inv s) (hs : s.st = .rxHdr) : s.idx.toNat ≤ 1 := by
  have hi := h.index
  rwa [IndexInPlace, hs] at hi

theorem Inv.idx_of_rxBody {s : State} (h : Inv s) (hs : s.st = .rxBody) :
    2 ≤ s.idx.toNat ∧ s.idx.toNat ≤ (s.byteAt 1).toNat + 2 := by
  have hi := h.index
  rwa [IndexInPlace, hs] at hi

/-- In RX_HDR an IDX that is not 0 is 1: the second header byte is awaited. -/
theorem Inv.idx_of_secondByte {s : State} (h : Inv s) (hs : s.st = .rxHdr) (hi : s.idx ≠ 0) : s.idx.toNat = 1 := by
  have := h.idx_of_rxHdr hs
  have : s.idx.toNat ≠ 0 := fun hz => hi (BitVec.eq_of_toNat_eq hz)
  omega

/-- In the receive states IDX is an index of BUF (R19, R77). -/
theorem Inv.idx_lt_cap {s : State} (h : Inv s) (hs : s.st = .rxHdr ∨ s.st = .rxBody) : s.idx.toNat < s.cfg.cap := by
  have := Config.cap_ge s.cfg
  rcases hs with hs | hs
  · have := h.idx_of_rxHdr hs
    omega
  · have := h.idx_of_rxBody hs
    obtain ⟨-, -, hlen⟩ := h.body hs
    omega

/-- In the receive states IDX + 1 does not wrap (R86). -/
theorem Inv.idx_succ {s : State} (h : Inv s) (hs : s.st = .rxHdr ∨ s.st = .rxBody) :
    (s.idx + 1).toNat = s.idx.toNat + 1 := by
  have := h.idx_lt_cap hs
  have := Config.cap_le s.cfg
  exact index_succ_toNat (by omega)

theorem storeReply_byteAt (b : Byte) (s : State) (i : Nat) :
    (s.storeReply b).byteAt i = if i = s.idx.toNat then b else s.byteAt i := Memory.read_write s.buf s.idx.toNat i b

theorem storeReply_byteAt_of_ne (b : Byte) {s : State} {i : Nat} (h : i ≠ s.idx.toNat) :
    (s.storeReply b).byteAt i = s.byteAt i := by
  rw [storeReply_byteAt, if_neg h]

/-- A body byte lies beyond the header: storing it leaves BUF[0] and BUF[1] as they are. -/
theorem Inv.storeReply_keeps_header {s : State} (h : Inv s) (hs : s.st = .rxBody) (b : Byte) :
    (s.storeReply b).byteAt 0 = s.byteAt 0 ∧ (s.storeReply b).byteAt 1 = s.byteAt 1 := by
  have := h.idx_of_rxBody hs
  exact ⟨storeReply_byteAt_of_ne b (by omega), storeReply_byteAt_of_ne b (by omega)⟩

/-- Storing a reply byte at IDX keeps the invariant (R34, R76, R79). -/
theorem Inv.after_storeReply {s : State} (h : Inv s) (hs : s.st = .rxHdr ∨ s.st = .rxBody) (b : Byte) :
    Inv (s.storeReply b) := { h with
  bufCanonical := Memory.wf_write _ _ _ h.bufCanonical
  bufWithin := Memory.within_write _ b (h.idx_lt_cap hs) h.bufWithin
  index := by
    rcases hs with hs | hs
    · simpa [IndexInPlace, hs] using h.idx_of_rxHdr hs
    · simpa [IndexInPlace, hs, h.storeReply_keeps_header hs b] using h.idx_of_rxBody hs
  body := fun hb => by
    obtain ⟨h0, h1⟩ := h.storeReply_keeps_header hb b
    rw [h0, h1]
    exact h.body hb
  deadline := Config.timeout_pos s.cfg }

/-- Where IDX + 1 is in place too, moving IDX on keeps the invariant. -/
theorem Inv.after_nextIndex {s : State} (h : Inv s) (hi : IndexInPlace s.nextIndex) : Inv s.nextIndex :=
  { h with index := hi }

/-- A cycle waited before the deadline keeps TMR below TIMEOUT_CYCLES (R82). -/
theorem Inv.after_countWait {s : State} (h : Inv s) (hd : s.tmr.toNat + 1 ≠ s.cfg.timeout) : Inv s.countWait := { h with
  deadline := by
    have := h.deadline
    have := Config.timeout_lt s.cfg
    rw [countWait_tmr, countWait_cfg, ticks_succ_toNat (by omega)]
    omega }

/-- An acceptance stages its frame inside BUF and latches no reserved code (R70, R71). -/
theorem Inv.after_accept {s : State} (h : Inv s) (hs : s.st = .idle) (op : Op) (d : Byte) : Inv (accept op d s) := { h with
  bufCanonical := Memory.wf_writeList _ _ _ h.bufCanonical
  bufWithin := by
    refine Memory.within_writeList _ _ ?_ h.bufWithin
    have := Config.cap_ge s.cfg
    have := txLen_cases op
    rw [requestFrame_length, accept_cfg]
    omega
  index := h.idx_of_idle hs
  body := nofun
  doneClear := fun _ => rfl
  opLatched := op.bits_ne_reserved }

/-- The end of FLUSH starts the frame at its first byte (R72). -/
theorem Inv.after_flushDone {s : State} (h : Inv s) (hs : s.st = .flush) :
    Inv { s with st := .tx, idx := 0, tmr := 0 } := { h with
  index := fun op _ => by
    have := txLen_cases op
    show 0 < txLen op
    omega
  body := nofun
  deadline := Config.timeout_pos s.cfg
  doneClear := fun _ => h.doneClear (by simp [hs]) }

/-- A byte handed over moves IDX within the frame, or to the first header byte (R73, R74). -/
theorem Inv.after_byteSent {s : State} (h : Inv s) (hs : s.st = .tx) {op : Op} (hop : s.op = op.bits) :
    Inv (byteSent op s) := by
  rcases byteSent_cases op s with ⟨_, e⟩ | ⟨hne, e⟩ <;> rw [e]
  · exact { h with
      index := Nat.zero_le 1
      body := nofun
      deadline := Config.timeout_pos s.cfg
      doneClear := fun _ => h.doneClear (by simp [hs]) }
  · have hlt := h.idx_of_tx hs hop
    have hlen := txLen_cases op
    have hi : IndexInPlace { s with idx := s.idx + 1, tmr := 0 } := by
      simp only [IndexInPlace, hs]
      intro op' hop'
      obtain rfl : op = op' := Op.bits_injective (hop.symm.trans hop')
      rw [index_succ_toNat (by omega)]
      omega
    exact { h with index := hi, deadline := Config.timeout_pos s.cfg }

/-- The second header byte, stored and classified: a completion, or a legal body (R76, R77). -/
theorem Inv.after_headerEnd {s : State} (h : Inv s) (hs : s.st = .rxHdr) (hi : s.idx ≠ 0) {op : Op} (hop : s.op = op.bits)
    (b : Byte) : Inv (headerEnd op (s.byteAt 0) b (s.storeReply b)) := by
  have hstored := h.after_storeReply (.inl hs) b
  rcases headerEnd_cases op (s.byteAt 0) b (s.storeReply b) with ⟨k, e⟩ | ⟨hk, h0, hlen, e⟩ <;> rw [e]
  · exact hstored.after_complete k
  · have hone := h.idx_of_secondByte hs hi
    have hb0 : (s.storeReply b).byteAt 0 = 0x40 := by rw [storeReply_byteAt_of_ne b (by omega), h0]
    have hb1 : (s.storeReply b).byteAt 1 = b := by rw [storeReply_byteAt, if_pos hone.symm]
    refine { hstored with
      index := ⟨Nat.le_refl 2, Nat.le_add_left 2 _⟩
      body := fun _ => ⟨?_, hb0, ?_⟩
      doneClear := fun _ => h.doneClear (by simp [hs]) }
    · intro op' hop'
      rwa [← Op.bits_injective (hop.symm.trans hop')]
    · show ((s.storeReply b).byteAt 1).toNat + 3 ≤ _
      rwa [hb1]

/-- The first header byte: IDX goes from 0 to 1 (R76). -/
theorem Inv.after_headerFirst {s : State} (h : Inv s) (hs : s.st = .rxHdr) (hi : s.idx = 0) (b : Byte) :
    Inv (s.storeReply b).nextIndex := by
  refine (h.after_storeReply (.inl hs) b).after_nextIndex ?_
  simp [IndexInPlace, hs, hi]

/-- A body byte before the checksum byte: IDX stays at most LEN + 2 (R79). -/
theorem Inv.after_bodyNext {s : State} (h : Inv s) (hs : s.st = .rxBody)
    (hi : s.idx ≠ (s.byteAt 1).setWidth 9 + 2) (b : Byte) : Inv (s.storeReply b).nextIndex := by
  refine (h.after_storeReply (.inr hs) b).after_nextIndex ?_
  obtain ⟨-, hb1⟩ := h.storeReply_keeps_header hs b
  have hidx := h.idx_of_rxBody hs
  rw [Ne, index_eq_checksumIndex_iff] at hi
  have hsucc : (s.storeReply b).nextIndex.idx.toNat = s.idx.toNat + 1 := h.idx_succ (.inr hs)
  have hlen : (s.storeReply b).nextIndex.byteAt 1 = s.byteAt 1 := hb1
  simp only [IndexInPlace, nextIndex_st, storeReply_st, hs, hsucc, hlen]
  omega

/-- Every transition keeps the sequencer's invariant. -/
theorem EdgeStep.keeps_inv {p : PortIn} {s t : State} (h : EdgeStep p s t) (hi : Inv s) : Inv t := by
  cases h with
  | reset => exact hi.after_resetState
  | idleHold | flushDrop => exact hi
  | accepted op d _ hs => exact hi.after_accept hs op d
  | flushDone _ hs => exact hi.after_flushDone hs
  | txError | txExpired | rxError | rxExpired => exact hi.after_complete _
  | txSent op _ hs _ _ _ hop => exact hi.after_byteSent hs hop
  | txWait _ _ _ _ hd | rxWait _ _ _ _ hd => exact hi.after_countWait hd
  | headerFirst b _ hs _ _ hz => exact hi.after_headerFirst hs hz b
  | headerSecond b op _ hs _ _ hz _ hop => exact hi.after_headerEnd hs hz hop b
  | bodyNext b _ hs _ _ _ hne => exact hi.after_bodyNext hs hne b
  | bodyBadSum b _ hs => exact (hi.after_storeReply (.inr hs) b).after_complete _
  | bodyDecoded b op k w _ hs =>
    have hstored := hi.after_storeReply (.inr hs) b
    exact ((hstored.after_setPaylen _).after_applyWrites w).after_complete k

/-! ## The reply sum -/

theorem bytesTo_succ (s : State) (n : Nat) : s.bytesTo (n + 1) = s.bytesTo n ++ [s.byteAt n] := by
  simp [State.bytesTo, List.range_succ]

/-- Storing the byte at IDX leaves the bytes below IDX as they are. -/
theorem storeReply_bytesTo_idx (b : Byte) (s : State) : (s.storeReply b).bytesTo s.idx.toNat = s.bytesTo s.idx.toNat := by
  refine List.map_congr_left fun i hi => storeReply_byteAt_of_ne b ?_
  exact Nat.ne_of_lt (List.mem_range.mp hi)

/-- A stored byte enters ACC and the sum of the stored bytes alike (R81). -/
theorem AccIsReplySum.after_storeReply {s : State} (ha : AccIsReplySum s) (hs : s.st = .rxHdr ∨ s.st = .rxBody)
    (b : Byte) : (s.storeReply b).acc = sum8 ((s.storeReply b).bytesTo (s.idx.toNat + 1)) := by
  rw [bytesTo_succ, storeReply_bytesTo_idx, sum8_append, storeReply_byteAt, if_pos rfl, storeReply_acc, ha hs]
  simp [sum8]

/-- In IDLE there is no reply whose sum to keep. -/
theorem accIsReplySum_of_idle {s : State} (hs : s.st = .idle) : AccIsReplySum s := by
  simp [AccIsReplySum, hs]

/-- A reply byte stored with IDX moved on keeps ACC the sum. -/
theorem AccIsReplySum.after_nextIndex {s : State} (ha : AccIsReplySum s) (hi : Inv s) (hs : s.st = .rxHdr ∨ s.st = .rxBody)
    (b : Byte) : AccIsReplySum (s.storeReply b).nextIndex := fun _ => by
  rw [nextIndex_idx, storeReply_idx, hi.idx_succ hs]
  exact ha.after_storeReply hs b

/-- In the invariant every transition keeps ACC the reply's sum (R81). -/
theorem EdgeStep.keeps_accIsReplySum {p : PortIn} {s t : State} (h : EdgeStep p s t) (hi : Inv s) (ha : AccIsReplySum s) :
    AccIsReplySum t := by
  cases h with
  | reset | txError | txExpired | rxError | rxExpired | bodyBadSum | bodyDecoded => exact accIsReplySum_of_idle rfl
  | idleHold | flushDrop | txWait | rxWait => exact ha
  | accepted | flushDone => simp [AccIsReplySum]
  | txSent op _ hs =>
    rcases byteSent_cases op s with ⟨_, e⟩ | ⟨_, e⟩ <;> rw [e]
    · exact fun _ => rfl
    · simp [AccIsReplySum, hs]
  | headerFirst b _ hs => exact ha.after_nextIndex hi (.inl hs) b
  | bodyNext b _ hs => exact ha.after_nextIndex hi (.inr hs) b
  | headerSecond b op _ hs _ _ hz =>
    rcases headerEnd_cases op (s.byteAt 0) b (s.storeReply b) with ⟨k, e⟩ | ⟨_, _, _, e⟩ <;> rw [e]
    · exact accIsReplySum_of_idle rfl
    · have hsum := ha.after_storeReply (.inl hs) b
      rw [hi.idx_of_secondByte hs hz] at hsum
      exact fun _ => hsum

/-! ## The environment, which PMRX does not read -/

/-- `s` with another transport, script and draw counter. -/
def State.withEnv (l : Transport) (es : List Edge) (n : Nat) (s : State) : State :=
  { s with link := l, script := es, draws := n }

/-- An answer with its next state changed by `f`; a fault and a refusal as they are. -/
def mapNext (f : State → State) (r : StepResult) : StepResult :=
  match r with
  | .next t => .next (f t)
  | .fault e => .fault e
  | .refused e => .refused e

section
variable (l : Transport) (es : List Edge) (n : Nat)

theorem whenIndexed_withEnv (s : State) {k k' : StepResult} (h : k' = mapNext (State.withEnv l es n) k) :
    whenIndexed (s.withEnv l es n) k' = mapNext (State.withEnv l es n) (whenIndexed s k) := by
  by_cases hi : s.idx.toNat < s.cfg.cap
  · rw [whenIndexed_of_lt hi, ← h]
    exact if_pos hi
  · rw [whenIndexed, whenIndexed, if_neg hi]
    exact if_neg hi

theorem whenOperation_withEnv (s : State) {k k' : Op → StepResult}
    (h : ∀ op, k' op = mapNext (State.withEnv l es n) (k op)) :
    whenOperation (s.withEnv l es n) k' = mapNext (State.withEnv l es n) (whenOperation s k) := by
  rcases opcode_cases s.op with ⟨op, hop⟩ | hop
  · rw [whenOperation_of_eq hop, whenOperation_of_eq (s := s.withEnv l es n) hop, h]
  · rw [whenOperation_of_reserved hop, whenOperation_of_reserved (s := s.withEnv l es n) hop]
    rfl

theorem byteSent_withEnv (op : Op) (s : State) :
    byteSent op (s.withEnv l es n) = (byteSent op s).withEnv l es n := by
  rcases byteSent_cases op s with ⟨h, e⟩ | ⟨h, e⟩ <;> rw [e]
  · exact if_pos h
  · exact if_neg h

theorem enterBody_withEnv (len : Byte) (s : State) :
    enterBody len (s.withEnv l es n) = (enterBody len s).withEnv l es n := by
  by_cases h : lengthFits s.cfg len = true
  · rw [enterBody, enterBody, if_pos h]
    exact if_pos h
  · rw [enterBody, enterBody, if_neg h]
    exact if_neg h

theorem presentRequest_withEnv (op : Op) (d : Byte) (s : State) :
    presentRequest op d (s.withEnv l es n) = mapNext (State.withEnv l es n) (presentRequest op d s) := by
  by_cases h : s.st = .idle
  · rw [presentRequest, presentRequest, if_pos h]
    exact if_pos h
  · rw [presentRequest, presentRequest, if_neg h]
    exact if_neg h

theorem classify_withEnv {ack data : State → State} (s : State)
    (ha : ∀ u : State, ack (u.withEnv l es n) = (ack u).withEnv l es n)
    (hd : ∀ u : State, data (u.withEnv l es n) = (data u).withEnv l es n) :
    classify ack data (s.withEnv l es n) = mapNext (State.withEnv l es n) (classify ack data s) := by
  by_cases h : s.classifying = true
  · rw [classify, classify, if_pos h]
    refine (if_pos h).trans (whenOperation_withEnv l es n s fun op => ?_)
    cases kind op
    · exact congrArg _ (ha s)
    · exact congrArg _ (hd s)
  · rw [classify, classify, if_neg h]
    exact if_neg h

/-- No instruction reads or writes the environment. -/
theorem exec_withEnv (i : Instr) (s : State) :
    exec i (s.withEnv l es n) = mapNext (State.withEnv l es n) (exec i s) := by
  have completes (k : Result) (u : State) : complete k (u.withEnv l es n) = (complete k u).withEnv l es n := rfl
  cases i with
  | readMeas d | startMeas d | stopMeas d | setCoef d | readCoef d | enAutosend d | stopAutosend d =>
    exact presentRequest_withEnv l es n _ d s
  | reserved => rfl
  | rxHdrAckAck | rxHdrNackNack | rxHdrOther => exact classify_withEnv l es n s (completes _) (completes _)
  | rxHdrResp len => exact classify_withEnv l es n s (completes _) (enterBody_withEnv l es n len)

theorem finish_withEnv (a : Byte) (s : State) :
    finish a (s.withEnv l es n) = mapNext (State.withEnv l es n) (finish a s) := by
  by_cases h : a = 0
  · subst h
    refine whenOperation_withEnv l es n s fun op => ?_
    have hsame : decodeReply (s.withEnv l es n).cfg op (s.withEnv l es n).byteAt = decodeReply s.cfg op s.byteAt := rfl
    rw [hsame]
    rcases decodeReply s.cfg op s.byteAt with _ | ⟨k, w⟩
    · rfl
    · cases w <;> rfl
  · rw [finish_of_bad h, finish_of_bad h]
    rfl

theorem idleRule_withEnv (p : PortIn) (s : State) :
    idleRule p (s.withEnv l es n) = mapNext (State.withEnv l es n) (idleRule p s) := by
  unfold idleRule
  cases p.req with
  | none => rfl
  | some r => exact exec_withEnv l es n _ s

theorem flushRule_withEnv (p : PortIn) (s : State) :
    flushRule p (s.withEnv l es n) = mapNext (State.withEnv l es n) (flushRule p s) := by
  unfold flushRule
  cases p.rx <;> rfl

theorem txRule_withEnv (p : PortIn) (s : State) :
    txRule p (s.withEnv l es n) = mapNext (State.withEnv l es n) (txRule p s) := by
  have hdue : (s.withEnv l es n).deadlineDue = s.deadlineDue := rfl
  unfold txRule
  rw [hdue]
  cases p.txErr
  · cases p.txReady
    · cases s.deadlineDue <;> rfl
    · exact whenIndexed_withEnv l es n s <|
        whenOperation_withEnv l es n s fun op => congrArg Host.Outcome.next (byteSent_withEnv l es n op s)
  · rfl

theorem receiveWait_withEnv (p : PortIn) (s : State) {take take' : Byte → StepResult}
    (h : ∀ b, take' b = mapNext (State.withEnv l es n) (take b)) :
    receiveWait p (s.withEnv l es n) take' = mapNext (State.withEnv l es n) (receiveWait p s take) := by
  have hdue : (s.withEnv l es n).deadlineDue = s.deadlineDue := rfl
  unfold receiveWait
  rw [hdue]
  cases p.rxErr
  · cases p.rx with
    | some b => exact h b
    | none => cases s.deadlineDue <;> rfl
  · rfl

theorem headerByte_withEnv (s : State) (b : Byte) :
    headerByte (s.withEnv l es n) b = mapNext (State.withEnv l es n) (headerByte s b) := by
  refine whenIndexed_withEnv l es n s ?_
  by_cases h : s.idx = 0
  · rw [if_pos h]
    exact if_pos h
  · rw [if_neg h]
    exact (if_neg h).trans (exec_withEnv l es n _ (s.storeReply b))

theorem bodyByte_withEnv (s : State) (b : Byte) :
    bodyByte (s.withEnv l es n) b = mapNext (State.withEnv l es n) (bodyByte s b) := by
  refine whenIndexed_withEnv l es n s ?_
  by_cases h : s.idx = (s.byteAt 1).setWidth 9 + 2
  · rw [if_pos h]
    exact (if_pos h).trans (finish_withEnv l es n _ (s.storeReply b))
  · rw [if_neg h]
    exact if_neg h

/-- A clock edge neither reads nor writes the environment but through the ports (R33). -/
theorem clockEdge_withEnv (p : PortIn) (s : State) :
    clockEdge p (s.withEnv l es n) = mapNext (State.withEnv l es n) (clockEdge p s) := by
  have hst : (s.withEnv l es n).st = s.st := rfl
  unfold clockEdge
  rw [hst]
  cases p.rst
  · cases s.st with
    | idle => exact idleRule_withEnv l es n p s
    | flush => exact flushRule_withEnv l es n p s
    | tx => exact txRule_withEnv l es n p s
    | rxHdr => exact receiveWait_withEnv l es n p s (headerByte_withEnv l es n s)
    | rxBody => exact receiveWait_withEnv l es n p s (bodyByte_withEnv l es n s)
    | unused => rfl
  · rfl

end

/-! ## STATUS -/

/-- The fields of a byte packed as STATUS is (R22). -/
theorem packed_status_fields (busy done : Bool) (code : BitVec 3) :
    let w : Byte := 0#3 ++ BitVec.ofBool busy ++ BitVec.ofBool done ++ code
    w.extractLsb' 0 3 = code ∧ w.getLsbD 3 = done ∧ w.getLsbD 4 = busy ∧ w.extractLsb' 5 3 = 0 := by
  revert busy done code
  decide

theorem busy_iff (s : State) : s.busy = true ↔ s.st ≠ .idle := by
  simp [State.busy]

/-! ## The statements -/

/-- Settles O31: each transition keeps the invariant, and so does the environment's move. -/
theorem stepKeepsInv : Obligations.StepKeepsInv := by
  intro s t hi h
  exact (step_next h).keeps_inv hi.after_environment

/-- Settles O32: a stored reply byte enters ACC and the sum alike. -/
theorem stepKeepsReplySum : Obligations.StepKeepsReplySum := by
  intro s t hi ha h
  exact (step_next h).keeps_accIsReplySum hi.after_environment ha

/-- Settles O34: only a decode and a reset write the pair, and both zero it with PM_VALID. -/
theorem stepKeepsInvalidPairZero : Obligations.StepKeepsInvalidPairZero := by
  intro s t hz h
  exact (step_next h).keeps_invalidPairZero hz

/-- Settles O36, from what a decode may write for each operation. -/
theorem resultsChangeOnlyByTheirCompletion : Obligations.ResultsChangeOnlyByTheirCompletion := by
  intro p s t hr h
  rcases (clockEdge_next h).results_cases hr with ⟨hpm, hcoef, hpay⟩ | ⟨b, op, k, w, hs, hop, hd, rfl⟩
  · exact ⟨absurd hpm, absurd hcoef, absurd hpay⟩
  · have hc : Completes s (decodedEnd b k w s) := completes_complete (by simp [hs]) k _
    have hkind : kind op = .data := (decodeReply_isSome_iff _ _ _).mp (by rw [hd]; rfl)
    have hcases := decodeReply_cases hd
    have hk : k.bits ≠ Result.checksumError.bits := by
      rcases hcases with ⟨rfl, -⟩ | ⟨rfl, -⟩ | ⟨rfl, -⟩ <;> decide
    refine ⟨?_, ?_, fun _ => ⟨⟨op, hop, hkind⟩, hs, hc, hk⟩⟩ <;>
      rcases hcases with ⟨rfl, rfl, _, _, _, _, _, rfl, -⟩ | ⟨rfl, rfl, _, rfl⟩ | ⟨rfl, rfl⟩
    · exact fun _ => ⟨hop, hs, hc, rfl⟩
    · exact absurd rfl
    · exact absurd rfl
    · exact absurd rfl
    · exact fun _ => ⟨hop, hs, hc, rfl⟩
    · exact absurd rfl

/-- Settles O37: an edge keeps the status and the latches, or accepts, or completes. -/
theorem statusAndLatchesChangeOnlyAtTheirEvents : Obligations.StatusAndLatchesChangeOnlyAtTheirEvents := by
  intro p s t hr h
  rcases (clockEdge_next h).status_cases hr with ⟨⟨hcode, hdone, hop, hdata⟩, -⟩ | ⟨op, d, hs, hq, rfl⟩ |
    ⟨hs, k, u, hop, hdata, rfl⟩
  · exact ⟨absurd hcode, by simp +contextual [hdone], by simp +contextual [hdone], by simp [hop, hdata]⟩
  · exact ⟨absurd rfl, nofun, fun _ _ => ⟨hs, rfl⟩, fun _ => ⟨hs, rfl, hq⟩⟩
  · have hc := completes_complete hs k u
    exact ⟨fun _ => hc, fun _ _ => hc, nofun, by simp [hop, hdata]⟩

/-- Settles O39: the path of ST case by case, and its end from the three kinds of edges. -/
theorem sequencerFollowsItsPath : Obligations.SequencerFollowsItsPath := by
  intro p s t hr h
  have hstep := clockEdge_next h
  have hend : s.st ≠ .idle → t.st = .idle → t.done = true ∧ t.idx = 0 ∧ t.tmr = 0 := by
    intro hs ht
    rcases hstep.status_cases hr with ⟨-, hidle⟩ | ⟨_, _, hidle, -, -⟩ | ⟨-, k, u, -, -, rfl⟩
    · exact absurd (hidle ht) hs
    · exact absurd hidle hs
    · exact ⟨rfl, rfl, rfl⟩
  have hpath := hstep.st_cases hr
  refine ⟨?_, ?_, ?_, ?_, ?_, hend⟩ <;> intro hs <;> simpa [hs] using hpath

/-- Settles O40: no transition writes the parameters, nor does the environment's move. -/
theorem stepNeverWritesTheParameters : Obligations.StepNeverWritesTheParameters := by
  intro s t h
  exact (step_next h).cfg_eq

/-- Settles O41: every rule and every instruction commutes with a change of the environment. -/
theorem blockSeesOnlyItsPorts : Obligations.BlockSeesOnlyItsPorts := by
  intro p s l es n
  refine (clockEdge_withEnv l es n p s).trans ?_
  cases clockEdge p s <;> rfl

/-- Settles O30: reset is in IDLE with nothing written, so only the bounds at 0 are asked. -/
theorem resetMeetsTheInvariants : Obligations.ResetMeetsTheInvariants := by
  refine ⟨⟨Memory.wf_reset, rfl, rfl, nofun, by decide, absurd rfl, by decide, by decide⟩, accIsReplySum_of_idle rfl, ?_,
    fun _ => ⟨rfl, rfl⟩⟩
  exact fun hs => absurd hs (by decide)

/-- Settles O44, from the fields of the packed byte. -/
theorem statusWordPacks : Obligations.StatusWordPacks := by
  refine ⟨by decide, fun s => ?_⟩
  obtain ⟨hcode, hdone, hbusy, hzero⟩ := packed_status_fields s.busy s.done s.code
  exact ⟨hcode, hdone, (Bool.eq_iff_iff.mp hbusy).trans (busy_iff s), hzero⟩

/-- Settles O46: the eight numbers one by one, and PM_VALID as 0 or 1. -/
theorem visibleRegistersShowTheState : Obligations.VisibleRegistersShowTheState := by
  intro s
  have hvalid : s.visibleReg 5 = some (if s.pmValid then 1 else 0) := by
    rw [State.visibleReg]
    cases s.pmValid <;> rfl
  refine ⟨rfl, rfl, rfl, rfl, rfl, hvalid, rfl, rfl, fun n hn => ?_⟩
  obtain ⟨m, rfl⟩ := Nat.exists_eq_add_of_lt hn
  rw [Nat.add_assoc, Nat.add_comm]
  rfl

end Sys2Proof.Machine
end

section
/-! SUPPORT. What a clock edge writes to BUF, what the transport holds and was handed after it, and the run of the whole machine
that hands a request frame over. -/

namespace Sys2Proof.Machine

/-! ## The ports -/

/-- Outside IDLE no rule looks at the request port (R44, R45). -/
theorem clockEdge_req_of_busy (p : PortIn) (r : Option Request) {s : State} (hs : s.st ≠ .idle) :
    clockEdge { p with req := r } s = clockEdge p s := by
  unfold clockEdge
  cases hst : s.st with
  | idle => exact absurd hst hs
  | flush | tx | rxHdr | rxBody | unused => rfl

/-! ## BUF -/

/-- An edge leaves BUF as it is, or stages the frame of an accepted request, or stores the byte that transfers (R35). -/
theorem EdgeStep.buf_cases {p : PortIn} {s t : State} (h : EdgeStep p s t) :
    t.buf = s.buf ∨ (∃ op d, s.st = .idle ∧ t = accept op d s) ∨
    (∃ b, (s.st = .rxHdr ∨ s.st = .rxBody) ∧ p.rx = some b ∧ t.buf = (s.storeReply b).buf) := by
  cases h with
  | reset | idleHold | flushDrop | flushDone | txError | txExpired | txWait | rxError | rxExpired | rxWait => exact .inl rfl
  | accepted op d _ hs => exact .inr (.inl ⟨op, d, hs, rfl⟩)
  | txSent op => rcases byteSent_cases op s with ⟨_, e⟩ | ⟨_, e⟩ <;> exact .inl (by rw [e])
  | headerFirst b _ hs _ hx => exact .inr (.inr ⟨b, .inl hs, hx, rfl⟩)
  | headerSecond b op _ hs _ hx =>
    rcases headerEnd_cases op (s.byteAt 0) b (s.storeReply b) with ⟨k, e⟩ | ⟨_, _, _, e⟩ <;>
      exact .inr (.inr ⟨b, .inl hs, hx, (congrArg State.buf e :)⟩)
  | bodyNext b _ hs _ hx | bodyBadSum b _ hs _ hx => exact .inr (.inr ⟨b, .inr hs, hx, rfl⟩)
  | bodyDecoded b op k w _ hs _ hx => exact .inr (.inr ⟨b, .inr hs, hx, by simp⟩)

/-- An acceptance leaves the bytes at and beyond TxLen as they are (R71). -/
theorem accept_byteAt_of_ge (op : Op) (d : Byte) (s : State) {i : Nat} (h : txLen op ≤ i) :
    (accept op d s).byteAt i = s.byteAt i :=
  Memory.read_writeList_ge _ _ (by rwa [requestFrame_length, Nat.zero_add])

/-- An acceptance stages the request frame from BUF[0] (R71). -/
theorem accept_bytesTo (op : Op) (d : Byte) (s : State) :
    (accept op d s).bytesTo (txLen op) = requestFrame s.cfg op d := by
  refine List.ext_getElem (by simp [State.bytesTo, requestFrame_length]) fun i _ hi => ?_
  have hread := Memory.read_writeList_at (requestFrame s.cfg op d) s.buf 0 i hi
  rw [Nat.zero_add] at hread
  rw [← hread]
  simp [State.bytesTo, State.byteAt]

/-- Outside FLUSH and TX no frame is asked to be staged. -/
theorem frameStaged_of_st {s : State} (hf : s.st ≠ .flush) (ht : s.st ≠ .tx) : FrameStaged s :=
  fun h => absurd h (not_or.mpr ⟨hf, ht⟩)

/-- Every transition keeps the request frame staged: FLUSH and TX write no byte of BUF, and FLUSH is entered by an acceptance
alone (R36, R71). -/
theorem EdgeStep.keeps_frameStaged {p : PortIn} {s t : State} (h : EdgeStep p s t) (hf : FrameStaged s) : FrameStaged t := by
  cases h with
  | reset | txError | txExpired | rxError | rxExpired | bodyBadSum | bodyDecoded => exact frameStaged_of_st nofun nofun
  | idleHold | flushDrop | txWait | rxWait => exact hf
  | accepted op d =>
    intro _ op' hop'
    obtain rfl : op = op' := Op.bits_injective hop'
    exact accept_bytesTo op d s
  | flushDone _ hs => exact fun _ => hf (.inl hs)
  | txSent op _ hs =>
    rcases byteSent_cases op s with ⟨_, e⟩ | ⟨_, e⟩ <;> rw [e]
    · exact frameStaged_of_st nofun nofun
    · exact fun _ => hf (.inr hs)
  | headerFirst b _ hs | bodyNext b _ hs => exact frameStaged_of_st (by simp [hs]) (by simp [hs])
  | headerSecond b op =>
    rcases headerEnd_cases op (s.byteAt 0) b (s.storeReply b) with ⟨k, e⟩ | ⟨_, _, _, e⟩ <;> rw [e] <;>
      exact frameStaged_of_st nofun nofun

/-! ## The transport -/

/-- No transition touches the transport: it is what the environment's move made it (R33). -/
theorem EdgeStep.link_eq {p : PortIn} {s t : State} (h : EdgeStep p s t) : t.link = s.link := by
  cases h with
  | txSent op => rcases byteSent_cases op s with ⟨_, e⟩ | ⟨_, e⟩ <;> rw [e]
  | headerSecond b op =>
    rcases headerEnd_cases op (s.byteAt 0) b (s.storeReply b) with ⟨k, e⟩ | ⟨_, _, _, e⟩ <;> rw [e] <;> rfl
  | bodyDecoded => simp
  | _ => rfl

section
variable {e : Edge} {s : State}

/-- Unless a byte is offered and `rx_ready` = 1, the arrivals queue behind the held bytes (R116). -/
theorem linkAfter_held_of_not_taken (h : s.rxReady = false ∨ e.rxOffer = false) : (linkAfter e s).held = heldAt e s := by
  have hfire : fireRx (portsIn e s) s = false := by rcases h with h | h <;> simp [fireRx, portsIn, h]
  simp [linkAfter, hfire]

/-- With nothing held nothing leaves, offer or not. -/
theorem linkAfter_held_of_empty (h : heldAt e s = []) : (linkAfter e s).held = [] := by
  simp [linkAfter, h]

/-- The oldest byte leaves when it is offered and `rx_ready` = 1 (R41, R49). -/
theorem linkAfter_held_of_taken {b : Byte} {held : List Byte} (hr : s.rxReady = true) (ho : e.rxOffer = true)
    (h : heldAt e s = b :: held) : (linkAfter e s).held = held := by
  have hfire : fireRx (portsIn e s) s = true := by simp [fireRx, portsIn, hr, ho, h]
  simp [linkAfter, hfire, h]

/-- A byte taken in TX is `BUF[IDX]`, handed over after those before it (R41, R48). -/
theorem linkAfter_sent_of_taken (hs : s.st = .tx) (ht : e.txReady = true) :
    (linkAfter e s).sent = s.link.sent ++ [s.byteAt s.idx.toNat] := by
  simp [linkAfter, fireTx, portsIn, State.txValid, State.txData, hs, ht]

/-- Outside TX, and where the transport is not ready, nothing is handed over (R49). -/
theorem linkAfter_sent_of_not_taken (h : s.st ≠ .tx ∨ e.txReady = false) : (linkAfter e s).sent = s.link.sent := by
  have hfire : fireTx (portsIn e s) s = false := by rcases h with h | h <;> simp [fireTx, State.txValid, portsIn, h]
  simp [linkAfter, hfire]

end

/-! ## From a transition to the edge -/

/-- Every transition is one the clock edge makes: the converse of `clockEdge_next` (R68). -/
theorem EdgeStep.clockEdge_eq {p : PortIn} {s t : State} (h : EdgeStep p s t) : clockEdge p s = .next t := by
  cases h with
  | reset hr => simp [clockEdge, hr]
  | idleHold hr hs hq => simp [clockEdge, hr, hs, idleRule, hq]
  | accepted op d hr hs hq =>
    simp [clockEdge, hr, hs, idleRule, hq, decode_request_bits, exec_requestInstr, presentRequest]
  | flushDrop b hr hs hx => simp [clockEdge, hr, hs, flushRule, hx]
  | flushDone hr hs hx => simp [clockEdge, hr, hs, flushRule, hx]
  | txError hr hs he => simp [clockEdge, hr, hs, txRule, he]
  | txSent op hr hs he ht hi hop =>
    simp [clockEdge, hr, hs, txRule, he, ht, whenIndexed_of_lt hi, whenOperation_of_eq hop]
  | txExpired hr hs he ht hd | txWait hr hs he ht hd => simp [clockEdge, hr, hs, txRule, he, ht, deadlineDue_iff, hd]
  | rxError hr hs he => rcases hs with hs | hs <;> simp [clockEdge, hr, hs, receiveWait, he]
  | rxExpired hr hs he hx hd | rxWait hr hs he hx hd =>
    rcases hs with hs | hs <;> simp [clockEdge, hr, hs, receiveWait, he, hx, deadlineDue_iff, hd]
  | headerFirst b hr hs he hx hi =>
    have hc : s.idx.toNat < s.cfg.cap := by
      rw [hi]
      exact Nat.lt_of_lt_of_le (by decide) (Config.cap_ge s.cfg)
    simp [clockEdge, hr, hs, receiveWait, he, hx, headerByte, whenIndexed_of_lt hc, hi]
  | headerSecond b op hr hs he hx hi hc hop =>
    have hcl : (s.storeReply b).classifying = true := (classifying_iff _).mpr ⟨hs, hi⟩
    simp only [clockEdge, hr, hs, receiveWait, he, hx, headerByte, whenIndexed_of_lt hc, if_neg hi,
      exec_decode_header _ _ hcl hop]
    rfl
  | bodyNext b hr hs he hx hc hi =>
    simp only [clockEdge, hr, hs, receiveWait, he, hx, bodyByte, whenIndexed_of_lt hc, if_neg hi]
    rfl
  | bodyBadSum b hr hs he hx hc hi ha =>
    simp only [clockEdge, hr, hs, receiveWait, he, hx, bodyByte, whenIndexed_of_lt hc, if_pos hi, finish_of_bad ha]
    rfl
  | bodyDecoded b op k w hr hs he hx hc hi ha hop hd =>
    simp only [clockEdge, hr, hs, receiveWait, he, hx, bodyByte, whenIndexed_of_lt hc, if_pos hi, ha,
      finish_of_good (s := s.storeReply b) hop hd]
    rfl


/-- Where the script fixes the move `e`, the machine steps by a transition on the ports that `e` makes. -/
theorem step_of_script {s v : State} {e : Edge} {es : List Edge} (h : s.script = e :: es)
    (hv : EdgeStep (portsIn e s) (s.withEnv (linkAfter e s) es s.draws) v) : step s = .next v := by
  have hedge : s.edge = e := by rw [State.edge, h]
  have hafter : s.afterEdge = s.withEnv (linkAfter e s) es s.draws := by
    rw [State.afterEdge, hedge, State.scriptAfter, State.drawsAfter, h]
    rfl
  rw [step, hedge, hafter, hv.clockEdge_eq]

/-! ## Runs that hand bytes over -/

/-- `k` steps from `s` lead to `u`, but for the environment: the script has come to `rest`, and the transport has been handed
`bs` since. -/
def RunsTo (k : Nat) (rest : List Edge) (bs : List Byte) (s u : State) : Prop :=
  ∃ l n, runSteps k s = .next (u.withEnv l rest n) ∧ l.sent = s.link.sent ++ bs

theorem runSteps_succ {s v : State} (h : step s = .next v) (k : Nat) : runSteps (k + 1) s = runSteps k v := by
  rw [runSteps, h]

theorem runSteps_add {k : Nat} (j : Nat) : ∀ {s v : State}, runSteps k s = .next v → runSteps (k + j) s = runSteps j v := by
  induction k with
  | zero =>
    intro s v h
    cases h
    rw [Nat.zero_add]
  | succ k ih =>
    intro s v h
    cases hstep : step s with
    | next u =>
      rw [runSteps_succ hstep] at h
      rw [Nat.add_right_comm, runSteps_succ hstep, ih h]
    | fault | refused => simp [runSteps, hstep] at h

theorem RunsTo.refl (l : Transport) (rest : List Edge) (n : Nat) (u : State) : RunsTo 0 rest [] (u.withEnv l rest n) u :=
  ⟨l, n, rfl, (List.append_nil _).symm⟩

section
variable {k j : Nat} {e : Edge} {es mid rest : List Edge} {bs cs : List Byte} {s v u : State}

/-- A run that starts with one move of the script, whose edge hands `bs` over. -/
theorem RunsTo.cons (hscript : s.script = e :: es) (hv : EdgeStep (portsIn e s) (s.withEnv (linkAfter e s) es s.draws) v)
    (hsent : (linkAfter e s).sent = s.link.sent ++ bs) (h : RunsTo k rest cs v u) : RunsTo (k + 1) rest (bs ++ cs) s u := by
  obtain ⟨l, n, hrun, hl⟩ := h
  refine ⟨l, n, (runSteps_succ (step_of_script hscript hv) k).trans hrun, ?_⟩
  calc
    l.sent = (linkAfter e s).sent ++ cs := by rw [hl, hv.link_eq]; rfl
    _ = s.link.sent ++ (bs ++ cs) := by rw [hsent, List.append_assoc]

/-- A run that starts with one move of the script, whose edge hands nothing over. -/
theorem RunsTo.cons_silent (hscript : s.script = e :: es)
    (hv : EdgeStep (portsIn e s) (s.withEnv (linkAfter e s) es s.draws) v) (hquiet : s.st ≠ .tx ∨ e.txReady = false)
    (h : RunsTo k rest cs v u) : RunsTo (k + 1) rest cs s u :=
  .cons (bs := []) hscript hv (by rw [linkAfter_sent_of_not_taken hquiet, List.append_nil]) h

/-- A run after a run, which it continues whatever the transport holds. -/
theorem RunsTo.trans (h : RunsTo k mid bs s v) (h' : ∀ l n, RunsTo j rest cs (v.withEnv l mid n) u) :
    RunsTo (k + j) rest (bs ++ cs) s u := by
  obtain ⟨l, n, hrun, hl⟩ := h
  obtain ⟨l', n', hrun', hl'⟩ := h' l n
  refine ⟨l', n', (runSteps_add j hrun).trans hrun', ?_⟩
  calc
    l'.sent = l.sent ++ cs := hl'
    _ = s.link.sent ++ (bs ++ cs) := by rw [hl, List.append_assoc]

/-- Where a run leads is read up to the environment. -/
theorem RunsTo.of_withEnv {l : Transport} {n : Nat} (h : RunsTo k rest bs s (u.withEnv l es n)) : RunsTo k rest bs s u := h

end

/-! ## The request frame on the wire -/

/-- TX at the first byte of the frame, as the end of FLUSH leaves it (R72). -/
def State.startTx (s : State) : State := { s with st := .tx, idx := 0, tmr := 0 }

/-- RX_HDR with no byte stored, as the last byte handed over leaves it (R74). -/
def State.startHeader (s : State) : State := { s with st := .rxHdr, idx := 0, acc := 0x00, tmr := 0 }

/-- A byte handed over clears TMR, so it leaves the same state however long it was waited for. -/
theorem byteSent_countWait (op : Op) (s : State) : byteSent op s.countWait = byteSent op s := rfl

/-- In FLUSH, a move that keeps it busy offers a byte, which leaves the transport; one that ends it offers none (R72). -/
theorem flushEdges_cons {s : State} (hs : s.st = .flush) {e : Edge} {es : List Edge}
    (h : FlushEdges s.link.held (e :: es)) : e.rst = false ∧
      ((∃ b, (portsIn e s).rx = some b ∧ FlushEdges (linkAfter e s).held es) ∨ ((portsIn e s).rx = none ∧ es = [])) := by
  obtain ⟨hr, h⟩ := h
  refine ⟨hr, ?_⟩
  cases ho : e.rxOffer with
  | false => exact .inr (by simpa [portsIn, ho] using h)
  | true =>
    cases hheld : heldAt e s with
    | nil =>
      refine .inr ⟨by simp [portsIn, hheld], ?_⟩
      rw [heldAt] at hheld
      simpa [ho, hheld] using h
    | cons b held =>
      refine .inl ⟨b, by simp [portsIn, ho, hheld], ?_⟩
      rw [linkAfter_held_of_taken (by simp [State.rxReady, hs]) ho hheld]
      rw [heldAt] at hheld
      simpa [ho, hheld] using h

/-- FLUSH drops what is offered and ends in TX, having handed nothing over (R72). -/
theorem runsTo_startTx {rest : List Edge} (es : List Edge) : ∀ {s : State}, s.st = .flush → s.script = es ++ rest →
    FlushEdges s.link.held es → RunsTo es.length rest [] s s.startTx := by
  induction es with
  | nil => exact fun _ _ h => absurd h id
  | cons e es ih =>
    intro s hs hscript hflush
    have hquiet : s.st ≠ .tx ∨ e.txReady = false := .inl (by simp [hs])
    obtain ⟨hr, ⟨b, hx, hflush⟩ | ⟨hx, rfl⟩⟩ := flushEdges_cons hs hflush
    · have hrest := ih (s := s.withEnv (linkAfter e s) (es ++ rest) s.draws) hs rfl hflush
      exact .cons_silent hscript (.flushDrop b hr hs hx) hquiet hrest.of_withEnv
    · exact .cons_silent hscript (.flushDone hr hs hx) hquiet (.refl (linkAfter e s) rest s.draws s.startTx)

/-- A TX byte taken within its deadline: the stalls only count, and the byte at IDX is handed over (R73, R82). -/
theorem runsTo_byteSent_of_stalls {op : Op} {last : Edge} {rest : List Edge} (hlr : last.rst = false) (hle : last.txErr = false)
    (hlt : last.txReady = true) (stalls : List Edge) : ∀ {s : State}, s.st = .tx → s.op = op.bits →
    s.idx.toNat < s.cfg.cap → s.script = stalls ++ last :: rest → s.tmr.toNat + stalls.length < s.cfg.timeout →
    (∀ e ∈ stalls, e.rst = false ∧ e.txErr = false ∧ e.txReady = false) →
    RunsTo (stalls.length + 1) rest [s.byteAt s.idx.toNat] s (byteSent op s) := by
  induction stalls with
  | nil =>
    intro s hs hop hi hscript _ _
    refine .cons hscript (.txSent op hlr hs hle hlt hi hop) (linkAfter_sent_of_taken hs hlt) ?_
    rw [byteSent_withEnv]
    exact .refl _ _ _ _
  | cons e es ih =>
    intro s hs hop hi hscript htime hstalls
    obtain ⟨⟨hr, he, ht⟩, hstalls⟩ := List.forall_mem_cons.mp hstalls
    rw [List.length_cons] at htime
    have hlimit := Config.timeout_lt s.cfg
    have htmr : (s.tmr + 1).toNat = s.tmr.toNat + 1 := ticks_succ_toNat (by omega)
    have hwait := ih (s := (s.withEnv (linkAfter e s) (es ++ last :: rest) s.draws).countWait) hs hop hi rfl
      (show (s.tmr + 1).toNat + es.length < s.cfg.timeout by omega) hstalls
    rw [byteSent_countWait, byteSent_withEnv] at hwait
    exact .cons_silent hscript (.txWait hr hs he ht (show s.tmr.toNat + 1 ≠ s.cfg.timeout by omega)) (.inr ht)
      hwait.of_withEnv

/-- A TX byte whose wait starts at 0, taken within its deadline. -/
theorem runsTo_byteSent {op : Op} {w rest : List Edge} {s : State} (hs : s.st = .tx) (hop : s.op = op.bits) (htmr : s.tmr = 0)
    (hi : s.idx.toNat < txLen op) (hscript : s.script = w ++ rest) (hw : TakeEdges s.cfg.timeout w) :
    RunsTo w.length rest [s.byteAt s.idx.toNat] s (byteSent op s) := by
  obtain ⟨stalls, last, rfl, htime, hstalls, hlr, hle, hlt⟩ := hw
  have hcap : s.idx.toNat < s.cfg.cap := by
    have := txLen_cases op
    have := Config.cap_ge s.cfg
    omega
  rw [List.length_append]
  exact runsTo_byteSent_of_stalls hlr hle hlt stalls hs hop hcap (hscript.trans (List.append_assoc ..))
    (by simpa [htmr] using htime) hstalls

/-- TX from IDX on, every byte taken in time: the bytes of BUF up to TxLen are handed over in index order, and the last one
starts the reply's header (R42, R73, R74). -/
theorem runsTo_startHeader {op : Op} {rest : List Edge} (ws : List (List Edge)) : ∀ {w : List Edge} {s : State}, s.st = .tx →
    s.op = op.bits → s.tmr = 0 → s.idx.toNat + 1 + ws.length = txLen op → s.script = w ++ (ws.flatten ++ rest) →
    TakeEdges s.cfg.timeout w → (∀ w' ∈ ws, TakeEdges s.cfg.timeout w') →
    RunsTo (w.length + ws.flatten.length) rest ((List.range' s.idx.toNat (ws.length + 1)).map s.byteAt) s s.startHeader := by
  induction ws with
  | nil =>
    intro w s hs hop htmr hlen hscript hw _
    have hrun := runsTo_byteSent hs hop htmr (by omega) hscript hw
    rwa [byteSent, if_pos (by simpa using hlen)] at hrun
  | cons w' ws ih =>
    intro w s hs hop htmr hlen hscript hw hws
    obtain ⟨hw', hws⟩ := List.forall_mem_cons.mp hws
    rw [List.length_cons] at hlen
    have hrun := runsTo_byteSent hs hop htmr (by omega) hscript hw
    rw [byteSent, if_neg (by omega)] at hrun
    have hidx : (s.idx + 1).toNat = s.idx.toNat + 1 := by
      have := txLen_cases op
      exact index_succ_toNat (by omega)
    refine hrun.trans fun l n => ?_
    rw [List.flatten_cons, List.length_append, ← hidx]
    exact ih (s := State.withEnv l _ n { s with idx := s.idx + 1, tmr := 0 }) hs hop rfl
      (show (s.idx + 1).toNat + 1 + ws.length = txLen op by omega) (List.append_assoc ..) hw' hws

/-- TX from its start, every byte taken in time: the bytes staged in BUF up to TxLen are handed over in index order (R42). -/
theorem runsTo_startHeader_of_startTx {op : Op} {rest : List Edge} {tx : List (List Edge)} {s : State} (hs : s.st = .tx)
    (hop : s.op = op.bits) (htmr : s.tmr = 0) (hidx : s.idx = 0) (hscript : s.script = tx.flatten ++ rest)
    (hlen : tx.length = txLen op) (htake : ∀ w ∈ tx, TakeEdges s.cfg.timeout w) :
    RunsTo tx.flatten.length rest (s.bytesTo (txLen op)) s s.startHeader := by
  cases tx with
  | nil => exact absurd hlen (by cases op <;> decide)
  | cons w ws =>
    obtain ⟨hw, hws⟩ := List.forall_mem_cons.mp htake
    have hzero : s.idx.toNat = 0 := by rw [hidx]; rfl
    have hrun := runsTo_startHeader (rest := rest) ws hs hop htmr (by rw [← hlen, hzero, List.length_cons]; omega)
      (by rw [hscript, List.flatten_cons, List.append_assoc]) hw hws
    rwa [hzero, ← List.range_eq_range', ← List.length_cons (a := w), hlen, ← List.length_append] at hrun

/-! ## The statements -/

/-- Settles O52: the acceptance stages the frame, FLUSH hands nothing over, and TX hands over the frame's bytes in order. -/
theorem requestFrameCrossesTheWire : Obligations.RequestFrameCrossesTheWire := by
  intro s op d a flushing tx rest hs hscript har haq hflush hlen htake
  have hrun : RunsTo (flushing.length + tx.flatten.length + 1) rest (requestFrame s.cfg op d) s
      (accept op d s).startTx.startHeader := by
    rw [← accept_bytesTo op d s]
    refine .cons_silent hscript (.accepted op d har hs haq) (.inl (by simp [hs])) ?_
    exact (runsTo_startTx flushing rfl rfl hflush).trans fun l n =>
      runsTo_startHeader_of_startTx (op := op) rfl rfl rfl rfl rfl hlen htake
  obtain ⟨l, n, hrun, hsent⟩ := hrun
  rw [Nat.add_comm, ← Nat.add_assoc] at hrun
  exact ⟨_, hrun, hsent, rfl, rfl, rfl, rfl, rfl⟩

/-- Settles O33: every transition keeps the frame staged, and the environment's move touches no byte of it. -/
theorem stepKeepsFrameStaged : Obligations.StepKeepsFrameStaged := by
  intro s t hf h
  exact (step_next h).keeps_frameStaged hf

/-- Settles O38: a changed byte is one of a staged frame, or the reply byte stored at IDX. -/
theorem onlyBuilderAndReceiverWriteTheBuffer : Obligations.OnlyBuilderAndReceiverWriteTheBuffer := by
  intro p s t i h hne
  rcases (clockEdge_next h).buf_cases with hbuf | ⟨op, d, hs, rfl⟩ | ⟨b, hs, hx, hbuf⟩
  · exact absurd (congrArg (Memory.read · i) hbuf) hne
  · refine .inl ⟨hs, rfl, op, rfl, ?_⟩
    by_contra hi
    exact hne (accept_byteAt_of_ge op d s (Nat.le_of_not_lt hi))
  · have hread : t.byteAt i = (s.storeReply b).byteAt i := congrArg (Memory.read · i) hbuf
    have hi : i = s.idx.toNat := by
      by_contra hi
      exact hne (hread.trans (storeReply_byteAt_of_ne b hi))
    refine .inr ⟨hs, hi, ?_⟩
    rw [hx, hread, storeReply_byteAt, if_pos hi]

/-- Settles O42: the block leaves the transport as the environment's move made it, so each clause is one about that move. -/
theorem transportKeepsByteOrder : Obligations.TransportKeepsByteOrder := by
  intro s t h
  rw [(step_next h).link_eq, afterEdge_link]
  exact ⟨linkAfter_held_of_not_taken, fun _ => linkAfter_held_of_empty, fun _ _ => linkAfter_held_of_taken,
    linkAfter_sent_of_taken, linkAfter_sent_of_not_taken⟩

/-- Settles O8: the request port is read in IDLE alone. -/
theorem busyBlockIgnoresTheRequestPort : Obligations.BusyBlockIgnoresTheRequestPort := by
  intro p r s hs
  exact clockEdge_req_of_busy p r hs

/-- Settles O45: the port's two cases, below BUF_CAP and not. -/
theorem bufferReadPort : Obligations.BufferReadPort := by
  intro a s
  exact ⟨fun h => if_pos h, fun h => if_neg (Nat.not_lt.mpr h)⟩

end Sys2Proof.Machine
end

section
/-! SUPPORT. The decoder as the inverse of the encoder, over presented words, bytes and table words; what each header row answers
by the kind of the operation; where the block refuses; and the handshake outputs. -/

namespace Sys2Proof.Machine

/-! ## The encoder and the decoder -/

theorem wf_requestInstr (op : Op) (d : Byte) : (requestInstr op d).wf = true := by cases op <;> rfl

theorem encode_requestInstr (op : Op) (d : Byte) : encode (requestInstr op d) = .request op.bits d := by cases op <;> rfl

/-- RX_HDR_OTHER takes the pairs that no row above it takes (R60, R61). -/
theorem wf_rxHdrOther_iff (b0 b1 : Byte) :
    (Instr.rxHdrOther b0 b1).wf = true ↔ ¬(b0 = 0xA5 ∧ b1 = 0xA5) ∧ ¬(b0 = 0x96 ∧ b1 = 0x96) ∧ b0 ≠ 0x40 := by
  simp [Instr.wf, Instr.notAckPair, Instr.notNackPair, Instr.notResp, and_assoc, imp_iff_not_or]

/-- A presented word decodes to the instruction it encodes: the eight codes differ, and the header rows exclude each other. -/
theorem decode_encode (i : Instr) (hi : i.wf = true) : decode (encode i) = i := by
  cases i with
  | readMeas | startMeas | stopMeas | setCoef | readCoef | enAutosend | stopAutosend | reserved => rfl
  | rxHdrAckAck | rxHdrNackNack | rxHdrResp => rfl
  | rxHdrOther b0 b1 =>
    obtain ⟨hack, hnack, hresp⟩ := (wf_rxHdrOther_iff b0 b1).mp hi
    simp only [encode, decode, decodeHeader, if_neg hack, if_neg hnack, if_neg hresp]

/-- Every presented word is the encoding of a well-formed instruction. -/
theorem exists_wf_encode_eq (p : Presented) : ∃ i : Instr, i.wf = true ∧ encode i = p := by
  cases p with
  | request c d =>
    rcases opcode_cases c with ⟨op, rfl⟩ | rfl
    · exact ⟨requestInstr op d, wf_requestInstr op d, encode_requestInstr op d⟩
    · exact ⟨.reserved d, rfl, rfl⟩
  | header b0 b1 =>
    by_cases hack : b0 = 0xA5 ∧ b1 = 0xA5
    · obtain ⟨rfl, rfl⟩ := hack
      exact ⟨.rxHdrAckAck, rfl, rfl⟩
    by_cases hnack : b0 = 0x96 ∧ b1 = 0x96
    · obtain ⟨rfl, rfl⟩ := hnack
      exact ⟨.rxHdrNackNack, rfl, rfl⟩
    by_cases hresp : b0 = 0x40
    · subst hresp
      exact ⟨.rxHdrResp b1, rfl, rfl⟩
    · exact ⟨.rxHdrOther b0 b1, (wf_rxHdrOther_iff b0 b1).mpr ⟨hack, hnack, hresp⟩, rfl⟩

theorem wf_decode (p : Presented) : (decode p).wf = true := by
  obtain ⟨i, hi, rfl⟩ := exists_wf_encode_eq p
  rwa [decode_encode i hi]

theorem encode_decode (p : Presented) : encode (decode p) = p := by
  obtain ⟨i, hi, rfl⟩ := exists_wf_encode_eq p
  rw [decode_encode i hi]

/-- The presented words that decode to a well-formed instruction are its encoding alone. -/
theorem decode_eq_iff {i : Instr} (hi : i.wf = true) (p : Presented) : decode p = i ↔ p = encode i := by
  constructor
  · rintro rfl
    exact (encode_decode p).symm
  · rintro rfl
    exact decode_encode i hi

/-! ## Bytes and table words -/

/-- The operation byte carries `req_op` in its low three bits. -/
theorem opByte_extract (c : BitVec 3) : (c.setWidth 8 : Byte).extractLsb' 0 3 = c := by
  revert c
  decide

/-- The low byte of a table word's two. -/
theorem ofNat_twoBytes_low (hi : Byte) (lo : Nat) : BitVec.ofNat 8 (hi.toNat * 256 + lo) = BitVec.ofNat 8 lo := by
  apply BitVec.eq_of_toNat_eq
  simp only [BitVec.toNat_ofNat]
  omega

/-- The high byte of a table word's two. -/
theorem ofNat_twoBytes_high (hi : Byte) {lo : Nat} (h : lo < 256) : BitVec.ofNat 8 ((hi.toNat * 256 + lo) / 256) = hi := by
  rw [show (hi.toNat * 256 + lo) / 256 = hi.toNat by omega, BitVec.ofNat_toNat, BitVec.setWidth_eq]

/-- The bytes of a request's table word are its operation byte and its data byte. -/
theorem tableBytes_request (c : BitVec 3) (d : Byte) : tableBytes 8 (d.toNat * 256 + c.toNat) = [c.setWidth 8, d] := by
  have hc := c.isLt
  simp only [tableBytes, tableFormat, ofNat_twoBytes_low, BitVec.ofNat_toNat]
  rw [ofNat_twoBytes_high d (by omega)]
  rfl

/-- The bytes of a header's table word are its pair in wire order. -/
theorem tableBytes_header (b0 b1 : Byte) : tableBytes 16 (b0.toNat * 256 + b1.toNat) = [b0, b1] := by
  simp only [tableBytes, tableFormat, ofNat_twoBytes_low, BitVec.ofNat_toNat, BitVec.setWidth_eq]
  rw [ofNat_twoBytes_high b0 b1.isLt]
  rfl

/-- Reading an instruction's bytes is decoding the word it is presented as, whatever follows them. -/
theorem decodeBytes_encodeBytes (i : Instr) (rest : List Byte) :
    decodeBytes (encodeBytes i).1 ((encodeBytes i).2 ++ rest) = .ok (decode (encode i), rest) := by
  unfold encodeBytes
  cases encode i with
  | request c d => simp only [List.cons_append, List.nil_append, decodeBytes, opByte_extract]
  | header b0 b1 => rfl

/-- A table word has the format of the instruction it was encoded from. -/
theorem tableFormat_encodeTableWord (i : Instr) : tableFormat (encodeTableWord i).1 = (encodeBytes i).1 := by
  unfold encodeTableWord encodeBytes
  cases encode i <;> rfl

/-- A table word holds the bytes of the instruction it was encoded from. -/
theorem tableBytes_encodeTableWord (i : Instr) :
    tableBytes (encodeTableWord i).1 (encodeTableWord i).2 = (encodeBytes i).2 := by
  unfold encodeTableWord encodeBytes
  cases encode i with
  | request c d => exact tableBytes_request c d
  | header b0 b1 => exact tableBytes_header b0 b1

theorem decodeTableWord_encodeTableWord (i : Instr) (hi : i.wf = true) :
    decodeTableWord (encodeTableWord i).1 (encodeTableWord i).2 = some i := by
  have hread := decodeBytes_encodeBytes i []
  rw [List.append_nil, decode_encode i hi] at hread
  rw [decodeTableWord, tableFormat_encodeTableWord, tableBytes_encodeTableWord, hread]

/-! ## A classified header -/

section
variable {s : State} {op : Op} (hs : s.st = .rxHdr) (hi : s.idx ≠ 0) (hop : s.op = op.bits)
include hs hi hop

theorem classify_of_ack (hk : kind op = .ack) (ack data : State → State) : classify ack data s = .next (ack s) := by
  rw [classify, if_pos ((classifying_iff s).mpr ⟨hs, hi⟩), whenOperation_of_eq hop, hk]

theorem classify_of_data (hk : kind op = .data) (ack data : State → State) : classify ack data s = .next (data s) := by
  rw [classify, if_pos ((classifying_iff s).mpr ⟨hs, hi⟩), whenOperation_of_eq hop, hk]

end

/-- The body is entered where its length is at most BUF_CAP − 3 (R61, R64). -/
theorem enterBody_of_le {len : Byte} {s : State} (h : len.toNat ≤ s.cfg.cap - 3) :
    enterBody len s = { s with st := .rxBody, idx := 2 } := if_pos (decide_eq_true h)

/-- A longer body ends the exchange before any of its bytes is read (R61, R64). -/
theorem enterBody_of_lt {len : Byte} {s : State} (h : s.cfg.cap - 3 < len.toNat) :
    enterBody len s = complete .transportError s := by
  refine if_neg fun hfits => ?_
  exact Nat.not_le.mpr h (of_decide_eq_true hfits)

/-! ## Where the block refuses -/

section
variable (r : Refusal)

theorem whenIndexed_ne_refused (s : State) {k : StepResult} (h : k ≠ .refused r) : whenIndexed s k ≠ .refused r := by
  unfold whenIndexed
  split
  · exact h
  · nofun

theorem whenOperation_ne_refused (s : State) {k : Op → StepResult} (h : ∀ op, k op ≠ .refused r) :
    whenOperation s k ≠ .refused r := by
  unfold whenOperation
  split
  · exact h _
  · nofun

theorem presentRequest_ne_refused (op : Op) (d : Byte) (s : State) : presentRequest op d s ≠ .refused r := by
  unfold presentRequest
  split <;> nofun

theorem classify_ne_refused (ack data : State → State) (s : State) : classify ack data s ≠ .refused r := by
  unfold classify
  split
  · refine whenOperation_ne_refused r s fun op => ?_
    cases kind op <;> nofun
  · nofun

/-- The reserved request is the one instruction that is refused (R62). -/
theorem exec_eq_refused_iff (i : Instr) (s : State) :
    exec i s = .refused r ↔ r = .reservedRequest ∧ ∃ d, i = .reserved d := by
  constructor
  · intro h
    cases i with
    | readMeas d | startMeas d | stopMeas d | setCoef d | readCoef d | enAutosend d | stopAutosend d =>
      exact absurd h (presentRequest_ne_refused r _ d s)
    | reserved d =>
      cases h
      exact ⟨rfl, d, rfl⟩
    | rxHdrAckAck | rxHdrNackNack | rxHdrResp | rxHdrOther => exact absurd h (classify_ne_refused r _ _ s)
  · rintro ⟨rfl, d, rfl⟩
    rfl

theorem finish_ne_refused (a : Byte) (s : State) : finish a s ≠ .refused r := by
  unfold finish
  split
  · nofun
  · refine whenOperation_ne_refused r s fun op => ?_
    split <;> nofun

/-- A header pair never decodes to the reserved request, so none is refused. -/
theorem headerByte_ne_refused (s : State) (b : Byte) : headerByte s b ≠ .refused r := by
  refine whenIndexed_ne_refused r s ?_
  split
  · nofun
  · intro h
    obtain ⟨-, d, hd⟩ := (exec_eq_refused_iff r _ _).mp h
    cases (decode_eq_iff (i := .reserved d) rfl _).mp hd

theorem bodyByte_ne_refused (s : State) (b : Byte) : bodyByte s b ≠ .refused r := by
  refine whenIndexed_ne_refused r s ?_
  split
  · exact finish_ne_refused r _ _
  · nofun

theorem receiveWait_ne_refused (p : PortIn) (s : State) {take : Byte → StepResult} (h : ∀ b, take b ≠ .refused r) :
    receiveWait p s take ≠ .refused r := by
  unfold receiveWait
  split
  · nofun
  · split
    · exact h _
    · split <;> nofun

theorem flushRule_ne_refused (p : PortIn) (s : State) : flushRule p s ≠ .refused r := by
  unfold flushRule
  split <;> nofun

theorem txRule_ne_refused (p : PortIn) (s : State) : txRule p s ≠ .refused r := by
  unfold txRule
  split
  · nofun
  · split
    · exact whenIndexed_ne_refused r s (whenOperation_ne_refused r s fun _ => nofun)
    · split <;> nofun

/-- In IDLE the refused offer is the reserved code's. -/
theorem idleRule_refused {p : PortIn} {s : State} (h : idleRule p s = .refused r) :
    ∃ d, p.req = some { op := 0b111, data := d } := by
  unfold idleRule at h
  split at h
  · rename_i q hq
    obtain ⟨-, d, hd⟩ := (exec_eq_refused_iff r _ _).mp h
    obtain ⟨c, e⟩ := q
    cases (decode_eq_iff (i := .reserved d) rfl _).mp hd
    exact ⟨_, hq⟩
  · cases h

/-- Only the IDLE rule can refuse, and only the reserved request (R62, R68). -/
theorem reservedFires_of_refused {p : PortIn} {s : State} (h : clockEdge p s = .refused r) : ReservedFires p s := by
  unfold clockEdge at h
  split at h
  · cases h
  · rename_i hr
    split at h
    · exact ⟨by simpa using hr, ‹_›, idleRule_refused r h⟩
    · exact absurd h (flushRule_ne_refused r p s)
    · exact absurd h (txRule_ne_refused r p s)
    · exact absurd h (receiveWait_ne_refused r p s (headerByte_ne_refused r s))
    · exact absurd h (receiveWait_ne_refused r p s (bodyByte_ne_refused r s))
    · cases h

end

/-- An edge at which the reserved request fires is refused (R62). -/
theorem ReservedFires.clockEdge_eq {p : PortIn} {s : State} (h : ReservedFires p s) :
    clockEdge p s = .refused .reservedRequest := by
  obtain ⟨hr, hs, d, hq⟩ := h
  simp only [clockEdge, hr, hs, idleRule, hq, exec_decode_reserved, Bool.false_eq_true, if_false]

/-! ## The handshake outputs -/

theorem reqReady_iff (s : State) : s.reqReady = true ↔ s.st = .idle := beq_iff_eq

theorem txValid_iff (s : State) : s.txValid = true ↔ s.st = .tx := beq_iff_eq

theorem rxReady_iff (s : State) :
    s.rxReady = true ↔ s.st = .idle ∨ s.st = .flush ∨ s.st = .rxHdr ∨ s.st = .rxBody := by
  unfold State.rxReady
  cases s.st <;> simp

/-! ## The statements -/

/-- Settles O2: bytes and table words are read as the presented word is, and that one decodes back. -/
theorem decodeInvertsEncode : Obligations.DecodeInvertsEncode := by
  intro i hi
  have hword := decode_encode i hi
  refine ⟨hword, fun rest => ?_, decodeTableWord_encodeTableWord i hi⟩
  rw [decodeBytes_encodeBytes, hword]

/-- Settles O3: the presented words are the encodings of the well-formed instructions. -/
theorem encodeInvertsDecode : Obligations.EncodeInvertsDecode := by
  intro p
  exact ⟨wf_decode p, encode_decode p⟩

/-- Settles O9: no rule but IDLE's can refuse, and no instruction but the reserved request is refused. -/
theorem reservedRequestIsRefused : Obligations.ReservedRequestIsRefused := by
  refine ⟨fun d s _ => ?_, fun p s => ⟨ReservedFires.clockEdge_eq, reservedFires_of_refused _⟩⟩
  exact (exec_eq_refused_iff _ _ s).mpr ⟨rfl, d, rfl⟩

/-- Settles O1: each of the words is the encoding of its instruction. -/
theorem tableWordsDecodeToTheirInstructions : Obligations.TableWordsDecodeToTheirInstructions := by
  have h := decodeTableWord_encodeTableWord
  exact ⟨h (.readMeas 0x00) rfl, h (.startMeas 0x00) rfl, h (.setCoef 0x00) rfl, h (.reserved 0x00) rfl,
    h .rxHdrAckAck rfl, h .rxHdrNackNack rfl, h (.rxHdrResp 0x0D) rfl, h (.rxHdrOther 0x42 0x4D) rfl⟩

/-- Settles O4: a pair decodes to a well-formed row's instruction only by being its encoding, and RX_HDR_OTHER with the pair is
what it decodes to only where that is well formed. -/
theorem headerPairsFallInTheirRows : Obligations.HeaderPairsFallInTheirRows := by
  intro b0 b1
  refine ⟨?_, ?_, fun len => ?_, ?_⟩
  · rw [decode_eq_iff rfl, encode, Presented.header.injEq]
  · rw [decode_eq_iff rfl, encode, Presented.header.injEq]
  · rw [decode_eq_iff rfl, encode, Presented.header.injEq]
  · rw [← wf_rxHdrOther_iff]
    exact ⟨fun h => h ▸ wf_decode (.header b0 b1), decode_encode (.rxHdrOther b0 b1)⟩

/-- Settles O10: a header row's answer for an ack-kind operation is the first of the two results its meaning names. -/
theorem ackKindHeaderResults : Obligations.AckKindHeaderResults := by
  intro s op hs hi hop hk
  have h := classify_of_ack hs hi hop hk
  exact ⟨h _ _, h _ _, fun _ => h _ _, fun _ _ => h _ _⟩

/-- Settles O11: a header row's answer for a data-kind operation is the second of the two results its meaning names, and a data
header's is by its length. -/
theorem dataKindHeaderResults : Obligations.DataKindHeaderResults := by
  intro s op hs hi hop hk
  have h := classify_of_data hs hi hop hk
  refine ⟨h _ _, h _ _, fun len hlen => ?_, fun len hlen => ?_, fun _ _ => h _ _⟩
  · rw [← enterBody_of_le hlen]
    exact h _ _
  · rw [← enterBody_of_lt hlen]
    exact h _ _

/-- Settles O43: each output by the state of the sequencer it follows. -/
theorem handshakePortsFollowTheSequencer : Obligations.HandshakePortsFollowTheSequencer := by
  intro a s
  exact ⟨reqReady_iff s, txValid_iff s, fun h => if_pos h, fun h => if_neg h, rxReady_iff s, busy_iff s, rfl⟩

end Sys2Proof.Machine
end

section
/-! SUPPORT. What one edge does in each state of the sequencer, by the transitions of `EdgeStep`; that in the invariant there
always is one; what requests and header rows leave alone; and the checksum's arithmetic. -/

namespace Sys2Proof.Machine

/-! ## Requests -/

theorem shortFrame_eq (c : Byte) : shortFrame c = [0x68, 0x01, c, -(0x68 + 0x01 + c)] := by
  simp [shortFrame, chk8, sum8, ← BitVec.add_assoc]

theorem dataFrame_eq (c d : Byte) : dataFrame c d = [0x68, 0x02, c, d, -(0x68 + 0x02 + c + d)] := by
  simp [dataFrame, chk8, sum8, ← BitVec.add_assoc]

/-- In IDLE a request instruction accepts its operation (R70). -/
theorem exec_request_of_idle {s : State} (hs : s.st = .idle) (op : Op) (d : Byte) :
    exec (requestInstr op d) s = .next (accept op d s) := by
  rw [exec_requestInstr, presentRequest, if_pos hs]

/-- Below TxLen an accepted request leaves the frame's bytes in BUF (R71). -/
theorem accept_byteAt_of_lt (op : Op) (d : Byte) (s : State) {k : Nat} (h : k < txLen op) :
    (requestFrame s.cfg op d)[k]? = some ((accept op d s).byteAt k) := by
  rw [← accept_bytesTo]
  simp [State.bytesTo, h]

/-! ## Header rows -/

/-- `t` is `s` with another ST, IDX, TMR, CODE and DONE, and nothing else of it changed. -/
def MovesSequencerOnly (s t : State) : Prop :=
  ∃ st idx tmr code done, t = { s with st := st, idx := idx, tmr := tmr, code := code, done := done }

theorem movesSequencerOnly_complete (k : Result) (s : State) : MovesSequencerOnly s (complete k s) :=
  ⟨_, _, _, _, _, rfl⟩

theorem movesSequencerOnly_enterBody (len : Byte) (s : State) : MovesSequencerOnly s (enterBody len s) := by
  unfold enterBody
  split
  · exact ⟨_, _, s.tmr, s.code, s.done, rfl⟩
  · exact movesSequencerOnly_complete _ s

/-- A header pair's answer has the frame of its two results: where none is classified, the state stays. -/
theorem movesSequencerOnly_of_classify {ack data : State → State} {s t : State} (hack : MovesSequencerOnly s (ack s))
    (hdata : MovesSequencerOnly s (data s)) (h : classify ack data s = .next t) : MovesSequencerOnly s t := by
  unfold classify at h
  split at h
  · obtain ⟨op, -, h⟩ := whenOperation_next h
    cases hk : kind op <;> rw [hk] at h <;> cases h
    · exact hack
    · exact hdata
  · cases h
    exact ⟨s.st, s.idx, s.tmr, s.code, s.done, rfl⟩

/-! ## Where the clock edge hands over to the decoder -/

section
variable {p : PortIn} {s : State} {b : Byte}

/-- The rule of IDLE on an offered request is the decoded request (R69). -/
theorem clockEdge_of_request (hr : p.rst = false) (hs : s.st = .idle) {r : Request} (hq : p.req = some r) :
    clockEdge p s = exec (decode (.request r.op r.data)) s := by
  simp [clockEdge, hr, hs, idleRule, hq]

/-- The rule of RX_HDR on its second byte is the decoded pair, with that byte stored (R76, R77). -/
theorem clockEdge_of_secondByte (hr : p.rst = false) (hs : s.st = .rxHdr) (he : p.rxErr = false) (hx : p.rx = some b)
    (hi : s.idx ≠ 0) (hc : s.idx.toNat < s.cfg.cap) :
    clockEdge p s = exec (decode (.header (s.byteAt 0) b)) (s.storeReply b) := by
  simp only [clockEdge, hr, hs, receiveWait, he, hx, headerByte, whenIndexed_of_lt hc, if_neg hi]
  rfl

end

/-! ## The result of a header pair -/

section
variable {op : Op} (b0 b1 : Byte) (s : State)

theorem headerEnd_of_ack (hk : kind op = .ack) : headerEnd op b0 b1 s = complete (ackClass b0 b1) s := by
  rw [headerEnd, hk]

theorem headerEnd_of_resp (hk : kind op = .data) : headerEnd op 0x40 b1 s = enterBody b1 s := by
  rw [headerEnd, hk]
  exact if_pos rfl

theorem headerEnd_of_notResp (hk : kind op = .data) (h : b0 ≠ 0x40) : headerEnd op b0 b1 s =
    complete (if b0 = 0x96 ∧ b1 = 0x96 then .deviceRejected else .transportError) s := by
  rw [headerEnd, hk]
  exact if_neg h

end

/-! ## In the invariant an edge always has a transition -/

/-- OP of the invariant holds the code of an operation (R62). -/
theorem Inv.exists_op {s : State} (h : Inv s) : ∃ op : Op, s.op = op.bits :=
  (opcode_cases s.op).resolve_right h.opLatched

/-- In RX_BODY the latched operation is a query, so its reply has a decode (R77, R80). -/
theorem Inv.exists_decodeReply {s : State} (h : Inv s) (hs : s.st = .rxBody) (rd : Nat → Byte) :
    ∃ op k w, s.op = op.bits ∧ decodeReply s.cfg op rd = some (k, w) := by
  obtain ⟨op, hop⟩ := h.exists_op
  obtain ⟨hkind, -⟩ := h.body hs
  have hsome := (decodeReply_isSome_iff s.cfg op rd).mpr (hkind op hop)
  obtain ⟨⟨k, w⟩, hd⟩ := Option.isSome_iff_exists.mp hsome
  exact ⟨op, k, w, hop, hd⟩

theorem txLen_le_cap (op : Op) (c : Config) : txLen op ≤ c.cap := by
  have := txLen_cases op
  have := Config.cap_ge c
  omega

section
variable {p : PortIn} {s : State}

theorem exists_edgeStep_of_idle (hr : p.rst = false) (hs : s.st = .idle) :
    (∃ t, EdgeStep p s t) ∨ ReservedFires p s := by
  cases hq : p.req with
  | none => exact .inl ⟨s, .idleHold hr hs hq⟩
  | some r =>
    obtain ⟨c, d⟩ := r
    rcases opcode_cases c with ⟨op, rfl⟩ | rfl
    · exact .inl ⟨_, .accepted op d hr hs hq⟩
    · exact .inr ⟨hr, hs, d, hq⟩

theorem exists_edgeStep_of_flush (hr : p.rst = false) (hs : s.st = .flush) : ∃ t, EdgeStep p s t := by
  cases hx : p.rx with
  | none => exact ⟨_, .flushDone hr hs hx⟩
  | some b => exact ⟨_, .flushDrop b hr hs hx⟩

theorem Inv.exists_edgeStep_of_tx (h : Inv s) (hr : p.rst = false) (hs : s.st = .tx) : ∃ t, EdgeStep p s t := by
  cases he : p.txErr with
  | true => exact ⟨_, .txError hr hs he⟩
  | false =>
    cases ht : p.txReady with
    | true =>
      obtain ⟨op, hop⟩ := h.exists_op
      have hi := Nat.lt_of_lt_of_le (h.idx_of_tx hs hop) (txLen_le_cap op s.cfg)
      exact ⟨_, .txSent op hr hs he ht hi hop⟩
    | false =>
      by_cases hd : s.tmr.toNat + 1 = s.cfg.timeout
      · exact ⟨_, .txExpired hr hs he ht hd⟩
      · exact ⟨_, .txWait hr hs he ht hd⟩

theorem Inv.exists_edgeStep_of_headerByte (h : Inv s) (hr : p.rst = false) (hs : s.st = .rxHdr) (he : p.rxErr = false)
    {b : Byte} (hx : p.rx = some b) : ∃ t, EdgeStep p s t := by
  by_cases hi : s.idx = 0
  · exact ⟨_, .headerFirst b hr hs he hx hi⟩
  · obtain ⟨op, hop⟩ := h.exists_op
    exact ⟨_, .headerSecond b op hr hs he hx hi (h.idx_lt_cap (.inl hs)) hop⟩

theorem Inv.exists_edgeStep_of_bodyByte (h : Inv s) (hr : p.rst = false) (hs : s.st = .rxBody) (he : p.rxErr = false)
    {b : Byte} (hx : p.rx = some b) : ∃ t, EdgeStep p s t := by
  have hc := h.idx_lt_cap (.inr hs)
  by_cases hi : s.idx = (s.byteAt 1).setWidth 9 + 2
  · by_cases ha : s.acc + b = 0
    · obtain ⟨op, k, w, hop, hd⟩ := h.exists_decodeReply hs (s.storeReply b).byteAt
      exact ⟨_, .bodyDecoded b op k w hr hs he hx hc hi ha hop hd⟩
    · exact ⟨_, .bodyBadSum b hr hs he hx hc hi ha⟩
  · exact ⟨_, .bodyNext b hr hs he hx hc hi⟩

theorem Inv.exists_edgeStep_of_receiving (h : Inv s) (hr : p.rst = false) (hs : s.st = .rxHdr ∨ s.st = .rxBody) :
    ∃ t, EdgeStep p s t := by
  cases he : p.rxErr with
  | true => exact ⟨_, .rxError hr hs he⟩
  | false =>
    cases hx : p.rx with
    | some b =>
      rcases hs with hs | hs
      · exact h.exists_edgeStep_of_headerByte hr hs he hx
      · exact h.exists_edgeStep_of_bodyByte hr hs he hx
    | none =>
      by_cases hd : s.tmr.toNat + 1 = s.cfg.timeout
      · exact ⟨_, .rxExpired hr hs he hx hd⟩
      · exact ⟨_, .rxWait hr hs he hx hd⟩

/-- In the invariant every edge makes one of the transitions, but where the reserved request fires (R62, R68). -/
theorem Inv.exists_edgeStep (h : Inv s) (p : PortIn) : (∃ t, EdgeStep p s t) ∨ ReservedFires p s := by
  cases hr : p.rst with
  | true => exact .inl ⟨_, .reset hr⟩
  | false =>
    cases hs : s.st with
    | idle => exact exists_edgeStep_of_idle hr hs
    | flush => exact .inl (exists_edgeStep_of_flush hr hs)
    | tx => exact .inl (h.exists_edgeStep_of_tx hr hs)
    | rxHdr => exact .inl (h.exists_edgeStep_of_receiving hr (.inl hs))
    | rxBody => exact .inl (h.exists_edgeStep_of_receiving hr (.inr hs))
    | unused n =>
      have hi := h.index
      rw [IndexInPlace, hs] at hi
      exact hi.elim

end

/-! ## The deadline -/

/-- R73's and R75's form of the expiry test. -/
theorem deadline_iff (s : State) : s.tmr.toNat = s.cfg.timeout - 1 ↔ s.tmr.toNat + 1 = s.cfg.timeout := by
  have := Config.timeout_pos s.cfg
  omega

/-! ## The checksum -/

theorem sum8_eq_sum (bs : List Byte) : sum8 bs = bs.sum := by
  induction bs with
  | nil => rfl
  | cons b bs ih => rw [sum8, ih, List.sum_cons]

/-- One byte more adds itself to the sum. -/
theorem sum8_concat (bs : List Byte) (c : Byte) : sum8 (bs ++ [c]) = sum8 bs + c := by
  rw [sum8_append]
  simp [sum8]

/-- A changed byte changes the sum by the difference. -/
theorem sum8_set (bs : List Byte) (i : Nat) (h : i < bs.length) (y : Byte) :
    sum8 (bs.set i y) = sum8 bs + (y - bs[i]) := by
  rw [sum8_eq_sum, sum8_eq_sum, List.sum_set', dif_pos h, neg_add_eq_sub]

/-- The bytewise differences of two lists sum to the difference of their sums. -/
theorem sum8_zipWith_sub (cs : List Byte) : ∀ bs : List Byte, bs.length = cs.length →
    sum8 (List.zipWith (· - ·) cs bs) = sum8 cs - sum8 bs := by
  induction cs with
  | nil =>
    intro bs h
    rw [List.length_eq_zero_iff.mp h]
    rfl
  | cons c cs ih =>
    intro bs h
    obtain ⟨b, bs, rfl⟩ := List.exists_cons_of_length_eq_add_one h
    rw [List.zipWith_cons_cons, sum8, sum8, sum8, ih bs (by simpa using h)]
    abel

/-- The order of the bytes does not matter to the sum. -/
theorem sum8_perm {bs cs : List Byte} (h : bs.Perm cs) : sum8 bs = sum8 cs := by
  rw [sum8_eq_sum, sum8_eq_sum, h.sum_eq]

/-! ## The statements -/

/-- Settles O35: in the invariant an edge without a transition is one at which the reserved request fires. -/
theorem stepIsTotalButForTheReservedRequest : Obligations.StepIsTotalButForTheReservedRequest := by
  intro p s hi
  rcases hi.exists_edgeStep p with ⟨t, h⟩ | h
  · exact .inl ⟨t, h.clockEdge_eq⟩
  · exact .inr ⟨h, h.clockEdge_eq⟩

/-- Settles O6: the answer is the acceptance, which stages its frame below TxLen. -/
theorem acceptanceFrame : Obligations.AcceptanceFrame := by
  intro op d s t hs h
  rw [exec_request_of_idle hs] at h
  cases h
  exact ⟨fun _ => accept_byteAt_of_ge op d s, fun _ => accept_byteAt_of_lt op d s,
    rfl, rfl, rfl, rfl, rfl, rfl, rfl, rfl, rfl, rfl, rfl, rfl, rfl, rfl, rfl⟩

/-- Settles O5: each request is accepted with its frame, the checksum written out. -/
theorem requestsAreAcceptedInIdle : Obligations.RequestsAreAcceptedInIdle := by
  intro d s hs accepted
  have h (op : Op) (frame : List Byte) (hf : requestFrame s.cfg op d = frame) :
      exec (requestInstr op d) s = .next (accepted op frame) := by
    rw [exec_request_of_idle hs, ← hf]
    rfl
  exact ⟨h .readMeas _ (shortFrame_eq _), h .startMeas _ (shortFrame_eq _), h .stopMeas _ (shortFrame_eq _),
    h .setCoef _ (dataFrame_eq _ _), h .readCoef _ (shortFrame_eq _), h .enAutosend _ (shortFrame_eq _),
    h .stopAutosend _ (shortFrame_eq _)⟩

/-- Settles O13: every header row's results are completions or the entry of the body, which move the sequencer only. -/
theorem headerFrame : Obligations.HeaderFrame := by
  intro i s t hrow h
  have hend (k : Result) := movesSequencerOnly_complete k s
  have hmoves : MovesSequencerOnly s t := by
    rcases hrow with rfl | rfl | ⟨len, rfl⟩ | ⟨b0, b1, rfl⟩
    · exact movesSequencerOnly_of_classify (hend _) (hend _) h
    · exact movesSequencerOnly_of_classify (hend _) (hend _) h
    · exact movesSequencerOnly_of_classify (hend _) (movesSequencerOnly_enterBody len s) h
    · exact movesSequencerOnly_of_classify (hend _) (hend _) h
  obtain ⟨_, _, _, _, _, rfl⟩ := hmoves
  exact ⟨fun _ => rfl, rfl, rfl, rfl, rfl, rfl, rfl, rfl, rfl, rfl, rfl, rfl, rfl, rfl, rfl⟩

/-- Settles O15: the two places where the edge runs a decoded instruction, on the ports the environment's move makes. -/
theorem stepRunsTheDecodedInstruction : Obligations.StepRunsTheDecodedInstruction := by
  intro s hr
  refine ⟨fun r hs hq => clockEdge_of_request (s := s.afterEdge) hr hs hq, fun b rest hs hi hc he ho hheld => ?_⟩
  have hx : (portsIn s.edge s).rx = some b := by simp [portsIn, ho, hheld]
  have hready : s.rxReady = true := by simp [State.rxReady, hs]
  exact ⟨clockEdge_of_secondByte (s := s.afterEdge) hr hs he hx hi hc, linkAfter_held_of_taken hready ho hheld⟩

/-- Settles O20: IDLE holds, accepts, or refuses the reserved code, by the request port alone. -/
theorem idleRule_holds : Obligations.IdleRule := by
  intro p s hr hs
  exact ⟨(reqReady_iff s).mpr hs, (rxReady_iff s).mpr (.inl hs), fun hq => (EdgeStep.idleHold hr hs hq).clockEdge_eq,
    fun op d hq => (EdgeStep.accepted op d hr hs hq).clockEdge_eq,
    fun d hq => ReservedFires.clockEdge_eq ⟨hr, hs, d, hq⟩⟩

/-- Settles O21: FLUSH drops an offered byte, and ends at the first edge without one. -/
theorem flushRule_holds : Obligations.FlushRule := by
  intro p s hr hs
  have htx : s.txValid = false := by simp [State.txValid, hs]
  exact ⟨(rxReady_iff s).mpr (.inr (.inl hs)), htx, fun b hx => (EdgeStep.flushDrop b hr hs hx).clockEdge_eq,
    fun hx => (EdgeStep.flushDone hr hs hx).clockEdge_eq⟩

/-- Settles O23: the error, the byte handed over with IDX below TxLen, the expiry and the wait are four transitions. -/
theorem transmitRule : Obligations.TransmitRule := by
  intro p s hr hs
  have hrx : s.rxReady = false := by simp [State.rxReady, hs]
  refine ⟨(txValid_iff s).mpr hs, if_pos hs, hrx, fun he => (EdgeStep.txError hr hs he).clockEdge_eq, ?_, ?_, ?_⟩
  · intro op hop hlt he ht
    have hi := Nat.lt_of_lt_of_le hlt (txLen_le_cap op s.cfg)
    rw [(EdgeStep.txSent op hr hs he ht hi hop).clockEdge_eq]
    rcases byteSent_cases op s with ⟨hlast, e⟩ | ⟨hmore, e⟩ <;> rw [e]
    · exact ⟨fun _ => rfl, fun hne => absurd hlast (by omega)⟩
    · exact ⟨fun heq => absurd heq (by omega), fun _ => rfl⟩
  · intro he ht hd
    exact (EdgeStep.txExpired hr hs he ht ((deadline_iff s).mp hd)).clockEdge_eq
  · intro he ht hd
    exact (EdgeStep.txWait hr hs he ht (mt (deadline_iff s).mpr hd)).clockEdge_eq

/-- Settles O24: the error, the expiry and the wait are transitions of both receive states. -/
theorem receiveErrorAndDeadline : Obligations.ReceiveErrorAndDeadline := by
  intro p s hr hs
  refine ⟨(rxReady_iff s).mpr (.inr (.inr hs)), fun he => (EdgeStep.rxError hr hs he).clockEdge_eq, ?_, ?_⟩
  · intro he hx hd
    exact (EdgeStep.rxExpired hr hs he hx ((deadline_iff s).mp hd)).clockEdge_eq
  · intro he hx hd
    exact (EdgeStep.rxWait hr hs he hx (mt (deadline_iff s).mpr hd)).clockEdge_eq

/-- Settles O25: the first byte is stored with IDX moved on; the second, at IDX 1, ends in the result of its pair. -/
theorem headerBytes : Obligations.HeaderBytes := by
  intro p s b hr hs he hx
  refine ⟨fun hi => ?_, fun hi op hop u hu => ?_⟩
  · rw [(EdgeStep.headerFirst b hr hs he hx hi).clockEdge_eq, State.storeReply, State.nextIndex, hi]
    rfl
  · have hne : s.idx ≠ 0 := by rw [hi]; decide
    have hc : s.idx.toNat < s.cfg.cap := by
      rw [hi]
      exact Nat.lt_of_lt_of_le (by decide) (Config.cap_ge s.cfg)
    have hstored : s.storeReply b = u := by rw [hu, State.storeReply, hi]; rfl
    have hcfg : u.cfg = s.cfg := by rw [hu]
    rw [(EdgeStep.headerSecond b op hr hs he hx hne hc hop).clockEdge_eq, hstored, ← hcfg]
    refine ⟨fun hk h => ?_, fun hk h => ?_, fun hk h5 h6 => ?_, fun hk h0 hlen => ?_, fun hk h0 hlen => ?_, fun hk h => ?_,
      fun hk h0 h6 => ?_⟩
    · rw [headerEnd_of_ack _ _ _ hk, ackClass, if_pos h]
    · rw [headerEnd_of_ack _ _ _ hk, h.1, h.2]
      rfl
    · rw [headerEnd_of_ack _ _ _ hk, ackClass, if_neg h5, if_neg h6]
    · rw [h0, headerEnd_of_resp _ _ hk, enterBody_of_lt hlen]
    · rw [h0, headerEnd_of_resp _ _ hk, enterBody_of_le hlen]
    · rw [headerEnd_of_notResp _ _ _ hk (by rw [h.1]; decide), if_pos h]
    · rw [headerEnd_of_notResp _ _ _ hk h0, if_neg h6]

/-- Settles O26: before LEN + 2 IDX moves on; there a bad sum ends the reply, and a good one has a decode by the invariant. -/
theorem bodyBytes : Obligations.BodyBytes := by
  intro p s b hinv hr hs he hx u hu
  obtain rfl : u = s.storeReply b := hu
  have hc := hinv.idx_lt_cap (.inr hs)
  have hi := index_eq_checksumIndex_iff s.idx (s.byteAt 1)
  refine ⟨fun hlt => ?_, fun heq ha => ?_, fun heq ha => ?_⟩
  · exact (EdgeStep.bodyNext b hr hs he hx hc (mt hi.mp (Nat.ne_of_lt hlt))).clockEdge_eq
  · exact (EdgeStep.bodyBadSum b hr hs he hx hc (hi.mpr heq) ha).clockEdge_eq
  · obtain ⟨op, k, w, hop, hd⟩ := hinv.exists_decodeReply hs (s.storeReply b).byteAt
    refine ⟨op, k, w, hop, hd, ?_, ?_⟩
    · rcases decodeReply_cases hd with ⟨hk, -⟩ | ⟨hk, -⟩ | hend
      · exact .inl hk
      · exact .inl hk
      · exact .inr hend
    · rw [(EdgeStep.bodyDecoded b op k w hr hs he hx hc (hi.mpr heq) ha hop hd).clockEdge_eq,
        (hinv.storeReply_keeps_header hs b).2]

/-- Settles O48, from the sum of an appended byte, of a changed byte, of the differences and of a permutation. -/
theorem checksumLaws : Obligations.ChecksumLaws := by
  refine ⟨fun bs => ?_, fun bs i h y hsum hy => ?_, fun bs cs hlen hdiff => ?_, fun bs cs => sum8_perm, fun bs c => ?_⟩
  · rw [sum8_concat, chk8]
    exact add_neg_cancel _
  · have hset : sum8 (bs.set i y) = y - bs[i] := by
      rw [sum8_set bs i h y, hsum]
      exact zero_add _
    exact ⟨hset, hset ▸ sub_ne_zero_of_ne hy⟩
  · rw [sum8_zipWith_sub cs bs hlen] at hdiff
    exact sub_eq_zero.mp hdiff
  · rw [sum8_concat, eq_neg_iff_add_eq_zero, add_comm]

/-- Settles O49: BUF_CAP bounds a length by its range, and IDX by the invariant. -/
theorem indexArithmeticNeverWraps : Obligations.IndexArithmeticNeverWraps := by
  intro s hi
  have hge := Config.cap_ge s.cfg
  have hle := Config.cap_le s.cfg
  refine ⟨fun len => ⟨?_, checksumIndex_toNat len⟩, by omega, by omega, fun hs => ?_⟩
  · have hlen : (len.setWidth 9 : Index).toNat = len.toNat := BitVec.toNat_setWidth_of_le (by decide)
    rw [index_succ_toNat (by omega), hlen]
  · have hlt : s.idx.toNat < s.cfg.cap := by
      rcases hs with hs | hs
      · obtain ⟨op, hop⟩ := hi.exists_op
        exact Nat.lt_of_lt_of_le (hi.idx_of_tx hs hop) (txLen_le_cap op s.cfg)
      · exact hi.idx_lt_cap hs
    exact ⟨index_succ_toNat (by omega), hlt⟩

end Sys2Proof.Machine
end

section
/-! SUPPORT. Runs of clock edges on sampled inputs: a wait and its expiry, the flush and the transmission of a request, and the
bound on an exchange's length. -/

namespace Sys2Proof.Machine

/-! ## Runs -/

theorem EdgeStep.runPorts_cons {p : PortIn} {s v : State} (h : EdgeStep p s v) (ps : List PortIn) :
    runPorts (p :: ps) s = runPorts ps v := by
  rw [runPorts, h.clockEdge_eq]

/-- A run after a run. -/
theorem runPorts_append {ps : List PortIn} (qs : List PortIn) : ∀ {s v : State}, runPorts ps s = .next v →
    runPorts (ps ++ qs) s = runPorts qs v := by
  induction ps with
  | nil =>
    intro s v h
    cases h
    rfl
  | cons p ps ih =>
    intro s v h
    cases hp : clockEdge p s with
    | next u =>
      rw [runPorts, hp] at h
      rw [List.cons_append, runPorts, hp]
      exact ih h
    | fault | refused => simp [runPorts, hp] at h

/-- A run that ends with one transition. -/
theorem runPorts_concat {ps : List PortIn} {p : PortIn} {s u v : State} (h : runPorts ps s = .next u)
    (hv : EdgeStep p u v) : runPorts (ps ++ [p]) s = .next v := by
  rw [runPorts_append [p] h, hv.runPorts_cons]
  rfl

/-! ## Waits -/

/-- At this edge nothing happens on the port the sequencer's state `st` waits for (R73, R75, R78). -/
def WaitsIn (st : SeqState) (p : PortIn) : Prop :=
  st = .tx ∧ TxStalls p ∨ (st = .rxHdr ∨ st = .rxBody) ∧ RxQuiet p

/-- What the expiry of a wait in `st` raises (R83). -/
def expiryResult (st : SeqState) : Result := if st = .tx then .transportError else .timeout

/-- The state after `n` waited cycles. -/
def State.waited (n : Nat) (s : State) : State := { s with tmr := s.tmr + BitVec.ofNat 32 n }

theorem waited_zero (s : State) : s.waited 0 = s := by
  simp [State.waited]

theorem countWait_waited (n : Nat) (s : State) : s.countWait.waited n = s.waited (n + 1) := by
  simp only [State.waited, State.countWait, BitVec.ofNat_add]
  congr 1
  rw [BitVec.add_assoc, BitVec.add_comm 1]
  rfl

section
variable {p : PortIn} {s : State}

theorem WaitsIn.countWait (h : WaitsIn s.st p) (hd : s.tmr.toNat + 1 ≠ s.cfg.timeout) : EdgeStep p s s.countWait := by
  rcases h with ⟨hs, hr, he, ht⟩ | ⟨hs, hr, he, hx⟩
  · exact .txWait hr hs he ht hd
  · exact .rxWait hr hs he hx hd

theorem WaitsIn.expire (h : WaitsIn s.st p) (hd : s.tmr.toNat + 1 = s.cfg.timeout) :
    EdgeStep p s (complete (expiryResult s.st) s) := by
  rcases h with ⟨hs, hr, he, ht⟩ | ⟨hs, hr, he, hx⟩
  · rw [expiryResult, if_pos hs]
    exact .txExpired hr hs he ht hd
  · rw [expiryResult, if_neg (by rcases hs with hs | hs <;> simp [hs])]
    exact .rxExpired hr hs he hx hd

end

theorem countWait_tmr_toNat {s : State} (h : s.tmr.toNat + 1 < s.cfg.timeout) :
    s.countWait.tmr.toNat = s.tmr.toNat + 1 := by
  have := Config.timeout_lt s.cfg
  exact ticks_succ_toNat (by omega)

/-- Before the deadline waited cycles only count (R82). -/
theorem runPorts_waited (ps : List PortIn) : ∀ {s : State}, (∀ p ∈ ps, WaitsIn s.st p) →
    s.tmr.toNat + ps.length < s.cfg.timeout → runPorts ps s = .next (s.waited ps.length) := by
  induction ps with
  | nil =>
    intro s _ _
    rw [List.length_nil, waited_zero]
    rfl
  | cons p ps ih =>
    intro s hps htime
    obtain ⟨hp, hps⟩ := List.forall_mem_cons.mp hps
    rw [List.length_cons] at htime
    have htmr := countWait_tmr_toNat (s := s) (by omega)
    rw [(hp.countWait (by omega)).runPorts_cons, List.length_cons, ← countWait_waited]
    exact ih hps (by rw [htmr, countWait_cfg]; omega)

/-- The wait's TIMEOUT_CYCLES-th cycle is its expiry (R82, R83). -/
theorem runPorts_expired (ps : List PortIn) : ∀ {s : State}, (∀ p ∈ ps, WaitsIn s.st p) →
    s.tmr.toNat < s.cfg.timeout → s.tmr.toNat + ps.length = s.cfg.timeout →
    runPorts ps s = .next (complete (expiryResult s.st) s) := by
  induction ps with
  | nil =>
    intro s _ hlt heq
    exact absurd heq (Nat.ne_of_lt hlt)
  | cons p ps ih =>
    intro s hps hlt htime
    obtain ⟨hp, hps⟩ := List.forall_mem_cons.mp hps
    rw [List.length_cons] at htime
    by_cases hd : s.tmr.toNat + 1 = s.cfg.timeout
    · obtain rfl : ps = [] := List.length_eq_zero_iff.mp (by omega)
      rw [(hp.expire hd).runPorts_cons]
      rfl
    · have htmr := countWait_tmr_toNat (s := s) (by omega)
      rw [(hp.countWait hd).runPorts_cons]
      exact ih hps (by rw [htmr, countWait_cfg]; omega) (by rw [htmr, countWait_cfg]; omega)

/-- A whole wait from TMR = 0, in the statement's words. -/
theorem runPorts_wait {ps : List PortIn} {s : State} (htmr : s.tmr = 0) (hps : ∀ p ∈ ps, WaitsIn s.st p) :
    (ps.length < s.cfg.timeout → runPorts ps s = .next { s with tmr := BitVec.ofNat 32 ps.length }) ∧
    (ps.length = s.cfg.timeout → runPorts ps s = .next (complete (expiryResult s.st) s)) := by
  have hzero : s.tmr.toNat = 0 := by rw [htmr]; rfl
  refine ⟨fun hlt => ?_, fun heq => ?_⟩
  · rw [runPorts_waited ps hps (by omega), State.waited, htmr, BitVec.ofNat_eq_ofNat, BitVec.zero_add]
  · exact runPorts_expired ps hps (hzero ▸ Config.timeout_pos s.cfg) (by omega)

/-! ## The request -/

/-- FLUSH drops every byte offered (R72). -/
theorem runPorts_flushDrop (ps : List PortIn) {s : State} (hs : s.st = .flush)
    (hps : ∀ p ∈ ps, p.rst = false ∧ p.rx.isSome = true) : runPorts ps s = .next s := by
  induction ps with
  | nil => rfl
  | cons p ps ih =>
    obtain ⟨⟨hr, hx⟩, hps⟩ := List.forall_mem_cons.mp hps
    obtain ⟨b, hx⟩ := Option.isSome_iff_exists.mp hx
    rw [(EdgeStep.flushDrop b hr hs hx).runPorts_cons, ih hps]

/-- A whole FLUSH ends at the start of TX. -/
theorem Flushes.runPorts_eq {ps : List PortIn} (h : Flushes ps) {s : State} (hs : s.st = .flush) :
    runPorts ps s = .next s.startTx := by
  obtain ⟨stale, last, rfl, hstale, hr, hx⟩ := h
  exact runPorts_concat (runPorts_flushDrop stale hs hstale) (.flushDone hr hs hx)

/-- A TX byte taken within its deadline leaves the state as if it were taken at once (R73, R82). -/
theorem TakenWithin.runPorts_eq {ps : List PortIn} {s : State} {op : Op} (h : TakenWithin s.cfg.timeout ps)
    (hs : s.st = .tx) (hop : s.op = op.bits) (hi : s.idx.toNat < s.cfg.cap) (htmr : s.tmr = 0) :
    runPorts ps s = .next (byteSent op s) := by
  obtain ⟨stalls, last, rfl, htime, hstalls, hr, he, ht⟩ := h
  have hwait := runPorts_waited stalls (fun p hp => .inl ⟨hs, hstalls p hp⟩) (by simpa [htmr] using htime)
  exact runPorts_concat hwait (.txSent op (s := s.waited _) hr hs he ht hi hop)

/-- TX from IDX on, every byte taken in time, ends at the start of the reply's header (R73, R74). -/
theorem runPorts_startHeader {op : Op} (ws : List (List PortIn)) : ∀ {w : List PortIn} {s : State}, s.st = .tx →
    s.op = op.bits → s.tmr = 0 → s.idx.toNat + 1 + ws.length = txLen op → TakenWithin s.cfg.timeout w →
    (∀ w' ∈ ws, TakenWithin s.cfg.timeout w') → runPorts (w ++ ws.flatten) s = .next s.startHeader := by
  induction ws with
  | nil =>
    intro w s hs hop htmr hlen hw _
    have hcap := txLen_le_cap op s.cfg
    rw [List.flatten_nil, List.append_nil, hw.runPorts_eq hs hop (by omega) htmr, byteSent, if_pos (by simpa using hlen)]
    rfl
  | cons w' ws ih =>
    intro w s hs hop htmr hlen hw hws
    obtain ⟨hw', hws⟩ := List.forall_mem_cons.mp hws
    have hcap := txLen_le_cap op s.cfg
    have htx := txLen_cases op
    rw [List.length_cons] at hlen
    have hidx : (s.idx + 1).toNat = s.idx.toNat + 1 := index_succ_toNat (by omega)
    rw [runPorts_append _ (hw.runPorts_eq hs hop (by omega) htmr), byteSent, if_neg (by omega), List.flatten_cons]
    exact ih (s := { s with idx := s.idx + 1, tmr := 0 }) hs hop rfl
      (show (s.idx + 1).toNat + 1 + ws.length = txLen op by omega) hw' hws

/-- A request played in IDLE leaves its operation latched, at the start of the reply's header (R70 to R74). -/
theorem PlaysRequest.runPorts_eq {op : Op} {d : Byte} {ps : List PortIn} {s : State}
    (h : PlaysRequest s.cfg.timeout op d ps) (hs : s.st = .idle) :
    runPorts ps s = .next (accept op d s).startHeader := by
  obtain ⟨a, fl, tx, rfl, ⟨hr, hq⟩, hfl, hlen, htx⟩ := h
  rw [(EdgeStep.accepted op d hr hs hq).runPorts_cons, runPorts_append _ (hfl.runPorts_eq rfl)]
  cases tx with
  | nil => exact absurd hlen (by cases op <;> decide)
  | cons w ws =>
    obtain ⟨hw, hws⟩ := List.forall_mem_cons.mp htx
    rw [List.length_cons] at hlen
    exact runPorts_startHeader (op := op) (s := (accept op d s).startTx) ws rfl rfl rfl
      (show 0 + 1 + ws.length = txLen op by omega) hw hws

/-! ## The bound -/

/-- The sequencer waits for a byte to be taken or to come: TX, RX_HDR, RX_BODY. -/
def SeqState.AwaitsByte (st : SeqState) : Prop := st = .tx ∨ st = .rxHdr ∨ st = .rxBody

/-- How many bytes the exchange of `op` may still wait for, in both directions (R84). -/
def awaitedBytes (op : Op) (s : State) : Nat :=
  match s.st with
  | .tx => txLen op - s.idx.toNat + maxReplyBytes s.cfg op
  | .rxHdr => maxReplyBytes s.cfg op - s.idx.toNat
  | .rxBody => s.cfg.cap - s.idx.toNat
  | .idle | .flush | .unused _ => 0

/-- The cycles those bytes may take: TIMEOUT_CYCLES each, less those waited for the next one already (R82, R84). -/
def cyclesLeft (op : Op) (s : State) : Nat := awaitedBytes op s * s.cfg.timeout - s.tmr.toNat

section
variable {op : Op} {s : State}

theorem awaitedBytes_of_tx (hs : s.st = .tx) : awaitedBytes op s = txLen op - s.idx.toNat + maxReplyBytes s.cfg op := by
  rw [awaitedBytes, hs]

theorem awaitedBytes_of_rxHdr (hs : s.st = .rxHdr) : awaitedBytes op s = maxReplyBytes s.cfg op - s.idx.toNat := by
  rw [awaitedBytes, hs]

theorem awaitedBytes_of_rxBody (hs : s.st = .rxBody) : awaitedBytes op s = s.cfg.cap - s.idx.toNat := by
  rw [awaitedBytes, hs]

theorem maxReplyBytes_ge (cfg : Config) (op : Op) : 2 ≤ maxReplyBytes cfg op := by
  have := Config.cap_ge cfg
  unfold maxReplyBytes
  split <;> omega

theorem maxReplyBytes_of_data (cfg : Config) (hk : kind op = .data) : maxReplyBytes cfg op = cfg.cap := by
  rw [maxReplyBytes, hk]

theorem Inv.awaitedBytes_pos (h : Inv s) (hs : s.st.AwaitsByte) : 0 < awaitedBytes op s := by
  have hmax := maxReplyBytes_ge s.cfg op
  rcases hs with hs | hs | hs
  · rw [awaitedBytes_of_tx hs]
    omega
  · have := h.idx_of_rxHdr hs
    rw [awaitedBytes_of_rxHdr hs]
    omega
  · have := h.idx_lt_cap (.inr hs)
    rw [awaitedBytes_of_rxBody hs]
    omega

theorem Inv.tmr_lt_awaited (h : Inv s) (hs : s.st.AwaitsByte) :
    s.tmr.toNat < awaitedBytes op s * s.cfg.timeout :=
  Nat.lt_of_lt_of_le h.deadline (Nat.le_mul_of_pos_left _ (h.awaitedBytes_pos hs))

theorem Inv.cyclesLeft_pos (h : Inv s) (hs : s.st.AwaitsByte) : 0 < cyclesLeft op s :=
  Nat.sub_pos_of_lt (h.tmr_lt_awaited hs)

theorem Inv.cyclesLeft_countWait (h : Inv s) (hs : s.st.AwaitsByte)
    (hd : s.tmr.toNat + 1 ≠ s.cfg.timeout) : cyclesLeft op s.countWait < cyclesLeft op s := by
  have hdl := h.deadline
  have htmr := countWait_tmr_toNat (s := s) (by omega)
  have hlt := h.tmr_lt_awaited (op := op) hs
  show awaitedBytes op s * s.cfg.timeout - s.countWait.tmr.toNat < awaitedBytes op s * s.cfg.timeout - s.tmr.toNat
  omega

/-- A byte less to wait for is worth more than the cycles waited for it. -/
theorem Inv.cyclesLeft_lt (h : Inv s) {t : State} (hcfg : t.cfg = s.cfg) (ha : awaitedBytes op t < awaitedBytes op s) :
    cyclesLeft op t < cyclesLeft op s := by
  have hmul : (awaitedBytes op t + 1) * s.cfg.timeout ≤ awaitedBytes op s * s.cfg.timeout := Nat.mul_le_mul_right _ ha
  have hdl := h.deadline
  rw [Nat.add_mul] at hmul
  unfold cyclesLeft
  rw [hcfg]
  omega

/-- A byte handed over is one less to wait for. -/
theorem Inv.awaitedBytes_byteSent (h : Inv s) (hs : s.st = .tx) (hop : s.op = op.bits) :
    awaitedBytes op (byteSent op s) < awaitedBytes op s ∧ (byteSent op s).st.AwaitsByte := by
  have hlt := h.idx_of_tx hs hop
  have hlen := txLen_cases op
  rw [awaitedBytes_of_tx hs]
  rcases byteSent_cases op s with ⟨_, e⟩ | ⟨_, e⟩ <;> rw [e]
  · have ht : awaitedBytes op s.startHeader = maxReplyBytes s.cfg op - 0 := awaitedBytes_of_rxHdr rfl
    exact ⟨ht ▸ by omega, .inr (.inl rfl)⟩
  · have ht : awaitedBytes op { s with idx := s.idx + 1, tmr := 0 } = txLen op - (s.idx + 1).toNat + maxReplyBytes s.cfg op :=
      awaitedBytes_of_tx hs
    rw [ht, index_succ_toNat (by omega)]
    exact ⟨by omega, .inl hs⟩

/-- A first header byte is one less to wait for. -/
theorem awaitedBytes_headerFirst (hs : s.st = .rxHdr) (hi : s.idx = 0) (b : Byte) :
    awaitedBytes op (s.storeReply b).nextIndex < awaitedBytes op s := by
  have hmax := maxReplyBytes_ge s.cfg op
  have ht : awaitedBytes op (s.storeReply b).nextIndex = maxReplyBytes s.cfg op - (s.idx + 1).toNat :=
    awaitedBytes_of_rxHdr hs
  rw [ht, awaitedBytes_of_rxHdr hs, hi]
  show _ - 1 < _ - 0
  omega

/-- A second header byte is one less to wait for where it does not end the exchange: only a query's reply has a body. -/
theorem Inv.headerEnd_progress (h : Inv s) (hs : s.st = .rxHdr) (hi : s.idx ≠ 0) (b : Byte) :
    (∃ k, headerEnd op (s.byteAt 0) b (s.storeReply b) = complete k (s.storeReply b)) ∨
    (awaitedBytes op (headerEnd op (s.byteAt 0) b (s.storeReply b)) < awaitedBytes op s ∧
      (headerEnd op (s.byteAt 0) b (s.storeReply b)).st.AwaitsByte) := by
  rcases headerEnd_cases op (s.byteAt 0) b (s.storeReply b) with hk | ⟨hk, -, -, e⟩
  · exact .inl hk
  · have hone := h.idx_of_secondByte hs hi
    have hcap := Config.cap_ge s.cfg
    rw [e, awaitedBytes_of_rxBody rfl, awaitedBytes_of_rxHdr hs, maxReplyBytes_of_data _ hk]
    refine .inr ⟨?_, .inr (.inr rfl)⟩
    show s.cfg.cap - 2 < _
    omega

/-- A body byte before the checksum byte is one less to wait for. -/
theorem Inv.awaitedBytes_bodyNext (h : Inv s) (hs : s.st = .rxBody) (b : Byte) :
    awaitedBytes op (s.storeReply b).nextIndex < awaitedBytes op s := by
  have hlt := h.idx_lt_cap (.inr hs)
  have ht : awaitedBytes op (s.storeReply b).nextIndex = s.cfg.cap - (s.idx + 1).toNat := awaitedBytes_of_rxBody hs
  rw [ht, awaitedBytes_of_rxBody hs, h.idx_succ (.inr hs)]
  omega

/-- An edge of a waiting exchange ends it, or leaves it fewer cycles (R82, R84). -/
theorem EdgeStep.progress {p : PortIn} {t : State} (h : EdgeStep p s t) (hr : p.rst = false) (hi : Inv s)
    (hop : s.op = op.bits) (hs : s.st.AwaitsByte) :
    (t.st = .idle ∧ t.done = true) ∨ (t.st.AwaitsByte ∧ cyclesLeft op t < cyclesLeft op s) := by
  have hcfg := h.cfg_eq
  cases h with
  | reset hrst => simp [hr] at hrst
  | idleHold _ hst | accepted _ _ _ hst | flushDrop _ _ hst | flushDone _ hst => simp [SeqState.AwaitsByte, hst] at hs
  | txError | txExpired | rxError | rxExpired | bodyBadSum | bodyDecoded => exact .inl ⟨rfl, rfl⟩
  | txWait _ _ _ _ hd | rxWait _ _ _ _ hd => exact .inr ⟨hs, hi.cyclesLeft_countWait hs hd⟩
  | txSent op' _ hst _ _ _ hop' =>
    obtain rfl : op' = op := Op.bits_injective (hop'.symm.trans hop)
    obtain ⟨ha, hst'⟩ := hi.awaitedBytes_byteSent hst hop
    exact .inr ⟨hst', hi.cyclesLeft_lt hcfg ha⟩
  | headerFirst b _ hst _ _ hz => exact .inr ⟨hs, hi.cyclesLeft_lt hcfg (awaitedBytes_headerFirst hst hz b)⟩
  | bodyNext b _ hst => exact .inr ⟨hs, hi.cyclesLeft_lt hcfg (hi.awaitedBytes_bodyNext hst b)⟩
  | headerSecond b op' _ hst _ _ hz _ hop' =>
    obtain rfl : op' = op := Op.bits_injective (hop'.symm.trans hop)
    rcases hi.headerEnd_progress hst hz b with ⟨k, e⟩ | ⟨ha, hst'⟩
    · rw [e]
      exact .inl ⟨rfl, rfl⟩
    · exact .inr ⟨hst', hi.cyclesLeft_lt hcfg ha⟩

theorem SeqState.AwaitsByte.ne_idle {st : SeqState} (h : st.AwaitsByte) : st ≠ .idle := by
  rcases h with rfl | rfl | rfl <;> decide

/-- Outside IDLE no edge without reset changes OP (R17). -/
theorem EdgeStep.op_eq_of_busy {p : PortIn} {t : State} (h : EdgeStep p s t) (hr : p.rst = false) (hs : s.st ≠ .idle) :
    t.op = s.op := by
  rcases h.status_cases hr with ⟨hsame, -⟩ | ⟨_, _, hidle, -⟩ | ⟨-, k, u, hop, -, rfl⟩
  · exact hsame.op
  · exact absurd hidle hs
  · exact hop

end

/-- A waiting exchange ends within the cycles left to it, whatever the inputs. -/
theorem exists_runPorts_idle {op : Op} (ps : List PortIn) : ∀ {s : State}, Inv s → s.op = op.bits → s.st.AwaitsByte →
    (∀ p ∈ ps, p.rst = false) → cyclesLeft op s ≤ ps.length →
    ∃ n t, n ≤ ps.length ∧ runPorts (ps.take n) s = .next t ∧ t.st = .idle ∧ t.done = true := by
  induction ps with
  | nil =>
    intro s hi hop hs _ hleft
    exact absurd (hi.cyclesLeft_pos (op := op) hs) (Nat.not_lt.mpr hleft)
  | cons p ps ih =>
    intro s hi hop hs hps hleft
    obtain ⟨hr, hps⟩ := List.forall_mem_cons.mp hps
    rcases hi.exists_edgeStep p with ⟨t, ht⟩ | ⟨-, hidle, -⟩
    · rcases ht.progress hr hi hop hs with ⟨hidle, hdone⟩ | ⟨hs', hlt⟩
      · exact ⟨1, t, by simp, ht.runPorts_cons [], hidle, hdone⟩
      · have hop' := (ht.op_eq_of_busy hr hs.ne_idle).trans hop
        rw [List.length_cons] at hleft
        obtain ⟨n, u, hn, hrun, hu⟩ := ih (ht.keeps_inv hi) hop' hs' hps (by omega)
        exact ⟨n + 1, u, Nat.succ_le_succ hn, (ht.runPorts_cons _).trans hrun, hu⟩
    · exact absurd hidle hs.ne_idle

/-! ## The statements -/

/-- Settles O51: at the start of TX the cycles left are the bound, and every edge leaves fewer or ends the exchange. -/
theorem exchangeEndsWithinItsBound : Obligations.ExchangeEndsWithinItsBound := by
  intro s op d a flushing ps hi hs ⟨hr, hq⟩ hfl hps hlen
  have hinv : Inv (accept op d s).startTx := (hi.after_accept hs op d).after_flushDone rfl
  have hleft : cyclesLeft op (accept op d s).startTx ≤ ps.length := by
    rw [hlen, ← Nat.add_mul]
    exact Nat.sub_le _ _
  obtain ⟨n, t, hn, hrun, ht⟩ := exists_runPorts_idle (op := op) ps hinv rfl (.inl rfl) hps hleft
  refine ⟨n, t, hn, ?_, ht⟩
  rw [(EdgeStep.accepted op d hr hs hq).runPorts_cons, runPorts_append _ (hfl.runPorts_eq rfl), hrun]

/-- Settles O29: a wait in each of the three states, with the result its expiry raises there. -/
theorem waitExpiresAfterTimeoutCycles : Obligations.WaitExpiresAfterTimeoutCycles := by
  intro ps s htmr
  refine ⟨fun hs hps => ?_, fun hs hps => ?_⟩
  · have hwait := runPorts_wait htmr fun p hp => .inr ⟨hs, hps p hp⟩
    rwa [expiryResult, if_neg (by rcases hs with hs | hs <;> simp [hs])] at hwait
  · have hwait := runPorts_wait htmr fun p hp => .inl ⟨hs, hps p hp⟩
    rwa [expiryResult, if_pos hs] at hwait

end Sys2Proof.Machine
end

section
/-! SUPPORT. An exchange's reply: the course it takes by the events it consumes, the run of edges that plays them, and that the
transaction view and the run end alike (R87 to R90). -/

namespace Sys2Proof.Machine

/-! ## The courses of a reply -/

/-- What an event that is no byte in time ends the reading with (R90). -/
def RxEvent.failure : RxEvent → Option Result
  | .byte _ => none
  | .late => some .timeout
  | .err => some .transportError

/-- The events `es` are fewer than `n` bytes and then a failure with `k`. -/
def FailsWithin (n : Nat) (k : Result) (es : List RxEvent) : Prop :=
  ∃ (bs : List Byte) (ev : RxEvent), bs.length < n ∧ ev.failure = some k ∧ es = bs.map .byte ++ [ev]

/-- An exchange that ends with `k` and writes no result, leaving the events `rest`. -/
def endWith (k : Result) (rest : List RxEvent) : ExchangeEnd := ⟨k, none, .none, rest⟩

/-- The end of a query whose whole reply was read: by its sum, then by its decode (R89, R90). -/
def ReadEnd (cfg : Config) (op : Op) (len : Byte) (reply : List Byte) (e : ExchangeEnd) : Prop :=
  (sum8 reply ≠ 0 ∧ ∃ rest, e = endWith .checksumError rest) ∨
  (sum8 reply = 0 ∧ ∃ k w rest, decodeReply cfg op (fun i => reply.getD i 0x00) = some (k, w) ∧
    e = ⟨k, some len, w, rest⟩)

/-- The four courses of a reply, by the events it consumes: it fails in its header or in its body, or ends with its header or
with its body (R87 to R90). -/
inductive ReplyCourse (cfg : Config) (op : Op) : List RxEvent → ExchangeEnd → Prop
  | headerFails (k : Result) (used rest : List RxEvent) (h : FailsWithin 2 k used) : ReplyCourse cfg op used (endWith k rest)
  | headerEnds (b0 b1 : Byte) (k : Result) (rest : List RxEvent)
      (h : ∀ s : State, s.cfg = cfg → headerEnd op b0 b1 s = complete k s) :
      ReplyCourse cfg op [.byte b0, .byte b1] (endWith k rest)
  | bodyFails (len : Byte) (k : Result) (used rest : List RxEvent) (hk : kind op = .data) (hfits : lengthFits cfg len = true)
      (h : FailsWithin (len.toNat + 1) k used) :
      ReplyCourse cfg op (.byte 0x40 :: .byte len :: used) (endWith k rest)
  | bodyEnds (len : Byte) (body : List Byte) (e : ExchangeEnd) (hk : kind op = .data) (hfits : lengthFits cfg len = true)
      (hlen : body.length = len.toNat + 1) (h : ReadEnd cfg op len (0x40 :: len :: body) e) :
      ReplyCourse cfg op (.byte 0x40 :: .byte len :: body.map .byte) e

/-! ## The course of a decided outcome -/

theorem FailsWithin.cons {n : Nat} {k : Result} {es : List RxEvent} (h : FailsWithin n k es) (b : Byte) :
    FailsWithin (n + 1) k (.byte b :: es) := by
  obtain ⟨bs, ev, hlen, hk, rfl⟩ := h
  exact ⟨b :: bs, ev, Nat.succ_lt_succ hlen, hk, rfl⟩

/-- A decided reading read its bytes, or came to a failure before the last of them. -/
theorem takeBytes_cases (n : Nat) : ∀ {es rest : List RxEvent} {r : Except Result (List Byte)},
    takeBytes n es = some (r, rest) → ∃ used, es = used ++ rest ∧
      ((∃ bs, r = .ok bs ∧ bs.length = n ∧ used = bs.map .byte) ∨ (∃ k, r = .error k ∧ FailsWithin n k used)) := by
  induction n with
  | zero =>
    intro es rest r h
    cases h
    exact ⟨[], rfl, .inl ⟨[], rfl, rfl, rfl⟩⟩
  | succ n ih =>
    intro es rest r h
    match es, h with
    | .late :: es, h =>
      cases h
      exact ⟨[.late], rfl, .inr ⟨_, rfl, [], .late, Nat.succ_pos n, rfl, rfl⟩⟩
    | .err :: es, h =>
      cases h
      exact ⟨[.err], rfl, .inr ⟨_, rfl, [], .err, Nat.succ_pos n, rfl, rfl⟩⟩
    | .byte b :: es, h =>
      rw [takeBytes] at h
      cases htake : takeBytes n es with
      | none => simp [htake] at h
      | some read =>
        obtain ⟨r', rest'⟩ := read
        obtain ⟨used, rfl, ⟨bs, rfl, hlen, rfl⟩ | ⟨k, rfl, hfail⟩⟩ := ih htake <;> rw [htake] at h <;> cases h
        · exact ⟨_, rfl, .inl ⟨b :: bs, rfl, congrArg (· + 1) hlen, rfl⟩⟩
        · exact ⟨_, rfl, .inr ⟨k, rfl, hfail.cons b⟩⟩

theorem takeBytes_ok {n : Nat} {es rest : List RxEvent} {bs : List Byte} (h : takeBytes n es = some (.ok bs, rest)) :
    bs.length = n ∧ es = bs.map .byte ++ rest := by
  obtain ⟨used, rfl, ⟨bs', hbs, hlen, rfl⟩ | ⟨k, hk, -⟩⟩ := takeBytes_cases n h
  · cases hbs
    exact ⟨hlen, rfl⟩
  · cases hk

theorem takeBytes_error {n : Nat} {es rest : List RxEvent} {k : Result} (h : takeBytes n es = some (.error k, rest)) :
    ∃ used, es = used ++ rest ∧ FailsWithin n k used := by
  obtain ⟨used, rfl, ⟨bs, hbs, -⟩ | ⟨k', hk, hfail⟩⟩ := takeBytes_cases n h
  · cases hbs
  · cases hk
    exact ⟨used, rfl, hfail⟩

section
variable {cfg : Config} {op : Op} {e : ExchangeEnd}

/-- The body of a reply fails, or is read to its end. -/
theorem bodyOutcome_course {len : Byte} {es : List RxEvent} (hk : kind op = .data) (hfits : lengthFits cfg len = true)
    (h : bodyOutcome cfg op 0x40 len es = some e) :
    ∃ used, es = used ++ e.rest ∧ ReplyCourse cfg op (.byte 0x40 :: .byte len :: used) e := by
  rw [bodyOutcome, if_neg (by simp [hfits])] at h
  split at h
  · cases h
  · rename_i k rest htake
    cases h
    obtain ⟨used, rfl, hfail⟩ := takeBytes_error htake
    exact ⟨used, rfl, .bodyFails len k used rest hk hfits hfail⟩
  · rename_i body rest htake
    obtain ⟨hlen, rfl⟩ := takeBytes_ok htake
    split at h
    · rename_i hsum
      cases h
      exact ⟨_, rfl, .bodyEnds len body _ hk hfits hlen (.inl ⟨hsum, rest, rfl⟩)⟩
    · rename_i hsum
      split at h
      · rename_i k w hd
        cases h
        exact ⟨_, rfl, .bodyEnds len body _ hk hfits hlen (.inr ⟨by simpa using hsum, k, w, rest, hd, rfl⟩)⟩
      · cases h

/-- Two header bytes end the exchange as the header pair ends the state's, or start a body (R60, R61). -/
theorem headerOutcome_course {b0 b1 : Byte} {es : List RxEvent} (h : headerOutcome cfg op b0 b1 es = some e) :
    ∃ used, es = used ++ e.rest ∧ ReplyCourse cfg op (.byte b0 :: .byte b1 :: used) e := by
  unfold headerOutcome at h
  split at h
  · rename_i hk
    cases h
    exact ⟨[], rfl, .headerEnds b0 b1 _ es fun s _ => headerEnd_of_ack b0 b1 s hk⟩
  · rename_i hk
    split at h
    · rename_i h0
      subst h0
      cases hfits : lengthFits cfg b1 with
      | true => exact bodyOutcome_course hk hfits h
      | false =>
        rw [bodyOutcome, if_pos hfits] at h
        cases h
        refine ⟨[], rfl, .headerEnds 0x40 b1 .transportError es fun s hcfg => ?_⟩
        rw [headerEnd_of_resp b1 s hk, enterBody, hcfg, hfits]
        rfl
    · rename_i h0
      cases h
      exact ⟨[], rfl, .headerEnds b0 b1 _ es fun s _ => headerEnd_of_notResp b0 b1 s hk h0⟩

/-- A decided outcome is that of a course, which consumes the events before `e.rest` (R90). -/
theorem exchangeOutcome_course {es : List RxEvent} (h : exchangeOutcome cfg op es = some e) :
    ∃ used, es = used ++ e.rest ∧ ReplyCourse cfg op used e := by
  unfold exchangeOutcome at h
  split at h
  · rename_i b0 b1 rest htake
    obtain ⟨-, rfl⟩ := takeBytes_ok htake
    obtain ⟨used, rfl, hcourse⟩ := headerOutcome_course h
    exact ⟨_, rfl, hcourse⟩
  · cases h
  · rename_i k rest htake
    cases h
    obtain ⟨used, rfl, hfail⟩ := takeBytes_error htake
    exact ⟨used, rfl, .headerFails k used rest hfail⟩
  · cases h

end

/-! ## A reply in BUF -/

/-- A byte written right after a row of bytes makes the row one longer. -/
theorem Memory.writeList_concat (b : Byte) (bs : List Byte) : ∀ (m : Memory) (i : Nat),
    m.writeList i (bs ++ [b]) = (m.writeList i bs).write (i + bs.length) b := by
  induction bs with
  | nil => exact fun _ _ => rfl
  | cons c bs ih =>
    intro m i
    rw [List.cons_append, Memory.writeList, ih, Memory.writeList, List.length_cons, Nat.add_right_comm, Nat.add_assoc]

/-- `s` in the receive state `st` with the reply's first bytes `bs` stored, at the start of the wait for the next (R76, R79). -/
def State.reading (st : SeqState) (bs : List Byte) (s : State) : State :=
  { s with st := st, buf := s.buf.writeList 0 bs, idx := BitVec.ofNat 9 bs.length, acc := sum8 bs, tmr := 0 }

section
variable (s : State) (st : SeqState) {bs : List Byte}

theorem reading_idx_toNat (h : bs.length < 512) : (s.reading st bs).idx.toNat = bs.length := by
  rw [State.reading, BitVec.toNat_ofNat, Nat.mod_eq_of_lt h]

theorem reading_byteAt {i : Nat} (h : i < bs.length) : (s.reading st bs).byteAt i = bs.getD i 0x00 := by
  have hread := Memory.read_writeList_at bs s.buf 0 i h
  rw [Nat.zero_add] at hread
  rw [List.getD_eq_getElem bs _ h, ← hread]
  rfl

/-- Storing the next byte makes the reply one byte longer, with IDX still at that byte. -/
theorem reading_storeReply (h : bs.length < 512) (b : Byte) :
    (s.reading st bs).storeReply b = { s.reading st (bs ++ [b]) with idx := (s.reading st bs).idx } := by
  rw [State.storeReply, reading_idx_toNat s st h]
  simp only [State.reading, sum8_concat, Memory.writeList_concat, Nat.zero_add]

/-- Storing the next byte and moving IDX on reads one byte more. -/
theorem reading_next (h : bs.length < 512) (b : Byte) :
    ((s.reading st bs).storeReply b).nextIndex = s.reading st (bs ++ [b]) := by
  have hidx : (s.reading st (bs ++ [b])).idx = (s.reading st bs).idx + 1 := by
    simp only [State.reading, List.length_append, List.length_singleton, BitVec.ofNat_add]
    rfl
  rw [reading_storeReply s st h, State.nextIndex, ← hidx]

end

/-- A decode of a reply reads no further than its LEN announces (R93, R94, R95). -/
theorem decodeReply_congr_of_length (cfg : Config) (op : Op) {rd rd' : Nat → Byte}
    (h : ∀ i, i < (rd 1).toNat + 3 → rd i = rd' i) : decodeReply cfg op rd = decodeReply cfg op rd' := by
  have h1 := h 1 (by omega)
  have h2 := h 2 (by omega)
  cases op with
  | readMeas =>
    by_cases h13 : rd 1 = 13
    · rw [h13] at h
      exact decodeReply_congr cfg .readMeas fun i _ hi => h i (show i < 13 + 3 by omega)
    by_cases h5 : rd 1 = 5
    · rw [h5] at h
      simp only [decodeReply, decodeMeas, ← h1, ← h2, h13, false_and, if_false, h 3 (by decide), h 4 (by decide),
        h 5 (by decide), h 6 (by decide)]
    · simp only [decodeReply, decodeMeas, ← h1, h13, h5, false_and, if_false]
  | readCoef =>
    by_cases hlen : rd 1 = 2
    · rw [hlen] at h
      simp only [decodeReply, decodeCoef, ← h1, ← h2, h 3 (by decide)]
    · simp only [decodeReply, decodeCoef, ← h1, hlen, false_and, if_false]
  | startMeas | stopMeas | setCoef | enAutosend | stopAutosend => rfl

/-! ## Events on the edges -/

/-- `u` starts the wait for a reply byte, and whenever in that wait `b` comes, the edge leads to `t`. -/
structure Takes (b : Byte) (u t : State) : Prop where
  receiving : u.st = .rxHdr ∨ u.st = .rxBody
  fresh : u.tmr = 0
  edge : ∀ (p : PortIn) (n : Ticks), p.rst = false → p.rxErr = false → p.rx = some b → EdgeStep p { u with tmr := n } t

theorem playsReply_cons {T : Nat} {ev : RxEvent} {es : List RxEvent} {ps : List PortIn} (h : PlaysReply T (ev :: es) ps) :
    ∃ qs qs', ps = qs ++ qs' ∧ Plays T ev qs ∧ PlaysReply T es qs' := by
  obtain ⟨pss, rfl, hpss⟩ := h
  obtain ⟨qs, qss, hqs, hqss, rfl⟩ := List.forall₂_cons_left_iff.mp hpss
  exact ⟨qs, qss.flatten, List.flatten_cons, hqs, qss, rfl, hqss⟩

theorem playsReply_nil {T : Nat} {ps : List PortIn} (h : PlaysReply T [] ps) : ps = [] := by
  obtain ⟨pss, rfl, hpss⟩ := h
  rw [List.forall₂_nil_left_iff.mp hpss, List.flatten_nil]

section
variable {u t : State} {ps : List PortIn} {b : Byte}

/-- A byte within its deadline is taken as if it came at once (R82). -/
theorem Takes.runPorts_eq (ht : Takes b u t) (h : Plays u.cfg.timeout (.byte b) ps) : runPorts ps u = .next t := by
  obtain ⟨quiet, last, rfl, htime, hquiet, hr, he, hx⟩ := h
  have hwait := runPorts_waited quiet (fun p hp => .inr ⟨ht.receiving, hquiet p hp⟩) (by simpa [ht.fresh] using htime)
  exact runPorts_concat hwait (ht.edge last _ hr he hx)

/-- A reply that begins with a byte goes on where the byte is taken. -/
theorem Takes.runPorts_cons (ht : Takes b u t) {es : List RxEvent} (h : PlaysReply u.cfg.timeout (.byte b :: es) ps) :
    ∃ qs, PlaysReply u.cfg.timeout es qs ∧ runPorts ps u = runPorts qs t := by
  obtain ⟨ps, qs, rfl, hb, hqs⟩ := playsReply_cons h
  exact ⟨qs, hqs, runPorts_append qs (ht.runPorts_eq hb)⟩

/-- A reply of one byte ends where the byte is taken. -/
theorem Takes.runPorts_single (ht : Takes b u t) (h : PlaysReply u.cfg.timeout [.byte b] ps) : runPorts ps u = .next t := by
  obtain ⟨qs, hqs, hrun⟩ := ht.runPorts_cons h
  rw [hrun, playsReply_nil hqs]
  rfl

variable {ev : RxEvent} {k : Result} (hs : u.st = .rxHdr ∨ u.st = .rxBody) (htmr : u.tmr = 0) (hk : ev.failure = some k)
include hs htmr hk

/-- A late byte or an error ends the exchange with its failure (R75, R78). -/
theorem runPorts_of_plays_failure (h : Plays u.cfg.timeout ev ps) : runPorts ps u = .next (complete k u) := by
  cases ev with
  | byte b => cases hk
  | late =>
    cases hk
    obtain ⟨hlen, hquiet⟩ := h
    have hexp := (runPorts_wait htmr fun p hp => .inr ⟨hs, hquiet p hp⟩).2 hlen
    rwa [expiryResult, if_neg (by rcases hs with hs | hs <;> simp [hs])] at hexp
  | err =>
    cases hk
    obtain ⟨quiet, last, rfl, htime, hquiet, hr, he⟩ := h
    have hwait := runPorts_waited quiet (fun p hp => .inr ⟨hs, hquiet p hp⟩) (by simpa [htmr] using htime)
    exact runPorts_concat hwait (.rxError (s := u.waited _) hr hs he)

/-- A reply that is a failure ends the exchange with it. -/
theorem runPorts_of_failure (h : PlaysReply u.cfg.timeout [ev] ps) : runPorts ps u = .next (complete k u) := by
  obtain ⟨ps, qs, rfl, hev, hqs⟩ := playsReply_cons h
  rw [playsReply_nil hqs, List.append_nil]
  exact runPorts_of_plays_failure hs htmr hk hev

end

/-! ## Bytes of a reply -/

section
variable (s : State) {op : Op}

theorem takes_headerFirst (b : Byte) : Takes b (s.reading .rxHdr []) (s.reading .rxHdr [b]) := by
  refine ⟨.inl rfl, rfl, fun p n hr he hx => ?_⟩
  exact reading_next s .rxHdr (bs := []) (by decide) b ▸ .headerFirst b hr rfl he hx rfl

theorem takes_headerSecond (hop : s.op = op.bits) (b0 b1 : Byte) :
    Takes b1 (s.reading .rxHdr [b0]) (headerEnd op b0 b1 ((s.reading .rxHdr [b0]).storeReply b1)) := by
  refine ⟨.inl rfl, rfl, fun p n hr he hx => ?_⟩
  have h0 : (s.reading .rxHdr [b0]).byteAt 0 = b0 := reading_byteAt s .rxHdr (bs := [b0]) (i := 0) Nat.one_pos
  have hc : 1 < s.cfg.cap := Nat.lt_of_lt_of_le (by decide) (Config.cap_ge s.cfg)
  have hone : (1 : Index) ≠ 0 := by decide
  rw [show headerEnd op b0 b1 = headerEnd op ((s.reading .rxHdr [b0]).byteAt 0) b1 by rw [h0]]
  exact .headerSecond (s := { s.reading .rxHdr [b0] with tmr := n }) b1 op hr rfl he hx hone hc hop

/-- A header `40 LEN` whose length fits leaves the reply in its body. -/
theorem headerEnd_reading_of_fits (hk : kind op = .data) {len : Byte} (hfits : lengthFits s.cfg len = true) :
    headerEnd op 0x40 len ((s.reading .rxHdr [0x40]).storeReply len) = s.reading .rxBody [0x40, len] := by
  rw [headerEnd_of_resp _ _ hk, reading_storeReply s .rxHdr (bs := [0x40]) (by decide) len]
  exact if_pos hfits

variable {len : Byte} {bs : List Byte}

/-- Where the body stands while it is read: LEN in BUF[1], and IDX below BUF_CAP. -/
theorem reading_body_facts (hfits : lengthFits s.cfg len = true) (h : bs.length ≤ len.toNat) (b0 : Byte) :
    (s.reading .rxBody (b0 :: len :: bs)).byteAt 1 = len ∧
    (s.reading .rxBody (b0 :: len :: bs)).idx.toNat = bs.length + 2 ∧ bs.length + 2 < s.cfg.cap := by
  have hcap := (lengthFits_iff s.cfg len).mp hfits
  have hle := Config.cap_le s.cfg
  exact ⟨reading_byteAt s .rxBody (i := 1) (by simp), reading_idx_toNat s .rxBody (by simp; omega), by omega⟩

/-- Before its last byte the body goes on (R79). -/
theorem takes_bodyNext (hfits : lengthFits s.cfg len = true) (h : bs.length < len.toNat) (b0 b : Byte) :
    Takes b (s.reading .rxBody (b0 :: len :: bs)) (s.reading .rxBody (b0 :: len :: (bs ++ [b]))) := by
  refine ⟨.inr rfl, rfl, fun p n hr he hx => ?_⟩
  obtain ⟨h1, hidx, hcap⟩ := reading_body_facts s hfits (Nat.le_of_lt h) b0
  have hle := Config.cap_le s.cfg
  have hne : (s.reading .rxBody (b0 :: len :: bs)).idx ≠ ((s.reading .rxBody (b0 :: len :: bs)).byteAt 1).setWidth 9 + 2 := by
    rw [Ne, index_eq_checksumIndex_iff, hidx, h1]
    omega
  exact reading_next s .rxBody (bs := b0 :: len :: bs) (by simp; omega) b ▸
    .bodyNext b hr rfl he hx (hidx ▸ hcap) hne

end

/-! ## The end of an exchange -/

/-- The end `e` of an exchange applied to the state: PAYLEN, the decode's writes, the completion (R80, R109). -/
def ExchangeEnd.applyTo (e : ExchangeEnd) (s : State) : State :=
  complete e.kind (applyWrites e.writes { s with paylen := e.paylen.getD s.paylen })

/-- `t` is `s` with `e` applied, but for the reply's bytes in BUF and ACC. -/
def EndsAs (e : ExchangeEnd) (s t : State) : Prop := ∃ buf acc, t = e.applyTo { s with buf := buf, acc := acc }

theorem endsAs_reading (k : Result) (rest : List RxEvent) (s : State) (st : SeqState) (bs : List Byte) :
    EndsAs (endWith k rest) s (complete k (s.reading st bs)) :=
  ⟨(s.reading st bs).buf, (s.reading st bs).acc, rfl⟩

theorem endsAs_stored (k : Result) (rest : List RxEvent) (s : State) (st : SeqState) (bs : List Byte) (b : Byte) :
    EndsAs (endWith k rest) s (complete k ((s.reading st bs).storeReply b)) :=
  ⟨((s.reading st bs).storeReply b).buf, ((s.reading st bs).storeReply b).acc, rfl⟩

/-- A decode's end: its writes over the stored reply, and PAYLEN from BUF[1]. -/
theorem endsAs_decoded (k : Result) (w : Writes) (rest : List RxEvent) {s u : State} {st : SeqState} {bs : List Byte}
    {b len : Byte} (hu : u = (s.reading st bs).storeReply b) (h1 : u.byteAt 1 = len) :
    EndsAs ⟨k, some len, w, rest⟩ s (complete k (applyWrites w { u with paylen := u.byteAt 1 })) := by
  refine ⟨u.buf, u.acc, ?_⟩
  rw [h1, hu]
  cases w <;> rfl

section
variable {s : State} {op : Op} {len : Byte} {ps : List PortIn}

/-- The reply as the decode reads it from BUF is the reply as the transaction view reads it from its bytes (R35, R95). -/
theorem decodeReply_stored {bs : List Byte} (hfits : lengthFits s.cfg len = true) (hlen : bs.length = len.toNat) (b0 b : Byte) :
    decodeReply s.cfg op ((s.reading .rxBody (b0 :: len :: bs)).storeReply b).byteAt =
      decodeReply s.cfg op (fun i => (b0 :: len :: (bs ++ [b])).getD i 0x00) := by
  have hcap := (lengthFits_iff s.cfg len).mp hfits
  have hle := Config.cap_le s.cfg
  refine (decodeReply_congr_of_length s.cfg op fun i hi => ?_).symm
  have hi : i < (b0 :: len :: (bs ++ [b])).length := by
    rw [List.getD_cons_succ, List.getD_cons_zero] at hi
    simp only [List.length_cons, List.length_append, List.length_nil]
    omega
  rw [reading_storeReply s .rxBody (by simp only [List.length_cons]; omega) b]
  exact (reading_byteAt s .rxBody hi).symm

/-- The last byte of a body ends the exchange as the sum and the decode of the whole reply say (R79, R80). -/
theorem exists_takes_lastByte {bs : List Byte} {b : Byte} {e : ExchangeEnd} (hop : s.op = op.bits)
    (hfits : lengthFits s.cfg len = true) (hlen : bs.length = len.toNat)
    (h : ReadEnd s.cfg op len (0x40 :: len :: (bs ++ [b])) e) :
    ∃ t, Takes b (s.reading .rxBody (0x40 :: len :: bs)) t ∧ EndsAs e s t := by
  obtain ⟨h1, hidx, hcap⟩ := reading_body_facts s hfits (Nat.le_of_eq hlen) 0x40
  have hlast : (s.reading .rxBody (0x40 :: len :: bs)).idx =
      ((s.reading .rxBody (0x40 :: len :: bs)).byteAt 1).setWidth 9 + 2 := by
    rw [index_eq_checksumIndex_iff, hidx, h1, hlen]
  have hacc : (s.reading .rxBody (0x40 :: len :: bs)).acc + b = sum8 (0x40 :: len :: (bs ++ [b])) :=
    (sum8_concat (0x40 :: len :: bs) b).symm
  rcases h with ⟨hsum, rest, rfl⟩ | ⟨hsum, k, w, rest, hd, rfl⟩
  · refine ⟨_, ⟨.inr rfl, rfl, fun p n hr he hx => ?_⟩,
      endsAs_stored .checksumError rest s .rxBody (0x40 :: len :: bs) b⟩
    exact .bodyBadSum b hr rfl he hx (hidx ▸ hcap) hlast (hacc ▸ hsum)
  · have hlen1 : ((s.reading .rxBody (0x40 :: len :: bs)).storeReply b).byteAt 1 = len := by
      rw [storeReply_byteAt_of_ne b (by omega), h1]
    refine ⟨_, ⟨.inr rfl, rfl, fun p n hr he hx => ?_⟩, endsAs_decoded k w rest rfl hlen1⟩
    exact .bodyDecoded b op k w hr rfl he hx (hidx ▸ hcap) hlast (hacc.trans hsum) hop
      ((decodeReply_stored hfits hlen 0x40 b).trans hd)

/-! ## The run of a reply -/

/-- The bytes of a body before its last, played one after the other. -/
theorem runPorts_bodyBytes (hfits : lengthFits s.cfg len = true) (es : List RxEvent) (more : List Byte) :
    ∀ {bs : List Byte} {ps : List PortIn}, bs.length + more.length ≤ len.toNat →
    PlaysReply s.cfg.timeout (more.map .byte ++ es) ps → ∃ qs, PlaysReply s.cfg.timeout es qs ∧
      runPorts ps (s.reading .rxBody (0x40 :: len :: bs)) = runPorts qs (s.reading .rxBody (0x40 :: len :: (bs ++ more))) := by
  induction more with
  | nil =>
    intro bs ps _ h
    exact ⟨ps, h, by rw [List.append_nil]⟩
  | cons b more ih =>
    intro bs ps hlen h
    rw [List.length_cons] at hlen
    obtain ⟨qs, hqs, hrun⟩ := (takes_bodyNext s hfits (bs := bs) (by omega) 0x40 b).runPorts_cons h
    obtain ⟨rs, hrs, hrun'⟩ := ih (bs := bs ++ [b]) (by simp only [List.length_append, List.length_singleton]; omega) hqs
    rw [List.append_assoc, List.singleton_append] at hrun'
    exact ⟨rs, hrs, hrun.trans hrun'⟩

/-- A header `40 LEN` of a query's reply, played: the body is awaited. -/
theorem runPorts_startBody {es : List RxEvent} (hk : kind op = .data) (hop : s.op = op.bits)
    (hfits : lengthFits s.cfg len = true) (h : PlaysReply s.cfg.timeout (.byte 0x40 :: .byte len :: es) ps) :
    ∃ qs, PlaysReply s.cfg.timeout es qs ∧
      runPorts ps (s.reading .rxHdr []) = runPorts qs (s.reading .rxBody [0x40, len]) := by
  obtain ⟨qs, hqs, hrun⟩ := (takes_headerFirst s 0x40).runPorts_cons h
  obtain ⟨rs, hrs, hrun'⟩ := (takes_headerSecond s hop 0x40 len).runPorts_cons hqs
  rw [headerEnd_reading_of_fits s hk hfits] at hrun'
  exact ⟨rs, hrs, hrun.trans hrun'⟩

/-- A reply that fails in its header. -/
theorem exists_run_headerFails {k : Result} {used : List RxEvent} (rest : List RxEvent) (h : FailsWithin 2 k used)
    (hplays : PlaysReply s.cfg.timeout used ps) :
    ∃ t, runPorts ps (s.reading .rxHdr []) = .next t ∧ EndsAs (endWith k rest) s t := by
  obtain ⟨bs, ev, hlen, hev, rfl⟩ := h
  match bs, hlen with
  | [], _ => exact ⟨_, runPorts_of_failure (.inl rfl) rfl hev hplays, endsAs_reading k rest s .rxHdr []⟩
  | [b], _ =>
    obtain ⟨qs, hqs, hrun⟩ := (takes_headerFirst s b).runPorts_cons hplays
    exact ⟨_, hrun.trans (runPorts_of_failure (.inl rfl) rfl hev hqs), endsAs_reading k rest s .rxHdr [b]⟩

/-- A reply that fails in its body. -/
theorem exists_run_bodyFails {k : Result} {used : List RxEvent} (rest : List RxEvent) (hfits : lengthFits s.cfg len = true)
    (h : FailsWithin (len.toNat + 1) k used) (hplays : PlaysReply s.cfg.timeout used ps) :
    ∃ t, runPorts ps (s.reading .rxBody [0x40, len]) = .next t ∧ EndsAs (endWith k rest) s t := by
  obtain ⟨bs, ev, hlen, hev, rfl⟩ := h
  obtain ⟨qs, hqs, hrun⟩ := runPorts_bodyBytes hfits [ev] bs (bs := []) (by rw [List.length_nil]; omega) hplays
  exact ⟨_, hrun.trans (runPorts_of_failure (.inr rfl) rfl hev hqs), endsAs_reading k rest s .rxBody _⟩

/-- A reply whose body is read to its end. -/
theorem exists_run_bodyEnds {body : List Byte} {e : ExchangeEnd} (hop : s.op = op.bits) (hfits : lengthFits s.cfg len = true)
    (hlen : body.length = len.toNat + 1) (h : ReadEnd s.cfg op len (0x40 :: len :: body) e)
    (hplays : PlaysReply s.cfg.timeout (body.map .byte) ps) :
    ∃ t, runPorts ps (s.reading .rxBody [0x40, len]) = .next t ∧ EndsAs e s t := by
  obtain rfl | ⟨init, b, rfl⟩ := List.eq_nil_or_concat' body
  · cases hlen
  · rw [List.length_append, List.length_singleton, Nat.add_right_cancel_iff] at hlen
    rw [List.map_append] at hplays
    obtain ⟨qs, hqs, hrun⟩ := runPorts_bodyBytes hfits _ init (bs := []) (by rw [List.length_nil]; omega) hplays
    obtain ⟨t, htakes, hends⟩ := exists_takes_lastByte hop hfits hlen h
    exact ⟨t, hrun.trans (htakes.runPorts_single hqs), hends⟩

/-- A reply played by its course ends as the course does (R90). -/
theorem ReplyCourse.exists_run {used : List RxEvent} {e : ExchangeEnd} (h : ReplyCourse s.cfg op used e) (hop : s.op = op.bits)
    (hplays : PlaysReply s.cfg.timeout used ps) : ∃ t, runPorts ps (s.reading .rxHdr []) = .next t ∧ EndsAs e s t := by
  cases h with
  | headerFails k used rest h => exact exists_run_headerFails rest h hplays
  | headerEnds b0 b1 k rest h =>
    obtain ⟨qs, hqs, hrun⟩ := (takes_headerFirst s b0).runPorts_cons hplays
    have hend := (takes_headerSecond s hop b0 b1).runPorts_single hqs
    rw [h ((s.reading .rxHdr [b0]).storeReply b1) rfl] at hend
    exact ⟨_, hrun.trans hend, endsAs_stored k rest s .rxHdr [b0] b1⟩
  | bodyFails len k used rest hk hfits h =>
    obtain ⟨qs, hqs, hrun⟩ := runPorts_startBody hk hop hfits hplays
    rw [hrun]
    exact exists_run_bodyFails rest hfits h hqs
  | bodyEnds len body e hk hfits hlen h =>
    obtain ⟨qs, hqs, hrun⟩ := runPorts_startBody hk hop hfits hplays
    rw [hrun]
    exact exists_run_bodyEnds hop hfits hlen h hqs

end

/-! ## The statement -/

/-- Settles O50: the outcome is that of a course, the request leads to the start of the header, and the course is run there. -/
theorem exchangeFollowsTheTransactionView : Obligations.ExchangeFollowsTheTransactionView := by
  intro s op d consumed e request reply hs hout hreq hreply
  obtain ⟨used, hused, hcourse⟩ := exchangeOutcome_course hout
  obtain rfl : consumed = used := List.append_cancel_right hused
  obtain ⟨t, hrun, buf, acc, rfl⟩ := hcourse.exists_run (s := accept op d s) rfl hreply
  refine ⟨_, (runPorts_append reply (hreq.runPorts_eq hs)).trans hrun, ?_⟩
  cases hw : e.writes <;> simp [ExchangeEnd.applyTo, hw]

end Sys2Proof.Machine
end

section
/-! SUPPORT. The deserializer in the cycle a good reply's checksum byte arrives: the 16-bit values as concatenations (R91), what
each decode says of each shape of reply (R93, R94), and that the byte being stored, the checksum, is none it reads (R95). -/

namespace Sys2Proof.Machine

/-! ## 16-bit values -/

/-- The big-endian value is the concatenation of its two bytes (R39, R91). -/
theorem u16_eq_append (hi lo : Byte) : u16 hi lo = hi ++ lo := by
  apply BitVec.eq_of_toNat_eq
  have hshift : hi.toNat <<< 8 < 2 ^ 16 := by
    have := hi.isLt
    rw [Nat.shiftLeft_eq]
    omega
  rw [u16, BitVec.toNat_or, BitVec.toNat_shiftLeft, BitVec.toNat_setWidth_of_le (by decide),
    BitVec.toNat_setWidth_of_le (by decide), Nat.mod_eq_of_lt hshift, BitVec.toNat_append]

/-! ## What each decode says -/

section
variable {rd : Nat → Byte}

theorem decodeMeas_of_compact (hlen : rd 1 = 13) (hecho : rd 2 = 0x04) : decodeMeas rd =
    (.ok, .measurement (rd 3 ++ rd 4) (rd 5 ++ rd 6) (rd 7 ++ rd 8) (rd 9 ++ rd 10) true) := by
  simp only [← u16_eq_append]
  exact if_pos ⟨hlen, hecho⟩

theorem decodeMeas_of_standard (hlen : rd 1 = 5) (hecho : rd 2 = 0x04) : decodeMeas rd =
    (.ok, .measurement 0x0000 (rd 3 ++ rd 4) 0x0000 (rd 5 ++ rd 6) false) := by
  have hshort : ¬(rd 1 = 13 ∧ rd 2 = Config.cmdReadMeas) := fun h => absurd (hlen.symm.trans h.1) (by decide)
  simp only [← u16_eq_append]
  rw [decodeMeas, if_neg hshort]
  exact if_pos ⟨hlen, hecho⟩

theorem decodeMeas_of_other (h : rd 1 ≠ 13 ∧ rd 1 ≠ 5 ∨ rd 2 ≠ 0x04) : decodeMeas rd = (.transportError, .none) := by
  have hcompact : ¬(rd 1 = 13 ∧ rd 2 = Config.cmdReadMeas) := fun hc => h.elim (·.1 hc.1) (· hc.2)
  have hstandard : ¬(rd 1 = 5 ∧ rd 2 = Config.cmdReadMeas) := fun hc => h.elim (·.2 hc.1) (· hc.2)
  rw [decodeMeas, if_neg hcompact, if_neg hstandard]

/-- A measurement decode never writes COEF (R29, R93). -/
theorem applyWrites_decodeMeas_coef (rd : Nat → Byte) (s : State) : (applyWrites (decodeMeas rd).2 s).coef = s.coef := by
  unfold decodeMeas
  split_ifs <;> rfl

variable {cfg : Config}

theorem decodeCoef_of_match (h : rd 1 = 2 ∧ rd 2 = cfg.cmdReadCoef) : decodeCoef cfg rd = (.ok, .coefficient (rd 3)) :=
  if_pos h

theorem decodeCoef_of_mismatch (h : ¬(rd 1 = 2 ∧ rd 2 = cfg.cmdReadCoef)) :
    decodeCoef cfg rd = (.transportError, .none) := if_neg h

end

/-! ## The checksum byte's cycle -/

/-- A decode reads LEN and the payload alone, so the checksum byte stored at LEN + 2 is not read (R93, R94, R95). -/
theorem decodeReply_storeChecksum (op : Op) {s : State} (hi : s.idx.toNat = (s.byteAt 1).toNat + 2) (b : Byte) :
    decodeReply s.cfg op (s.storeReply b).byteAt = decodeReply s.cfg op s.byteAt := by
  have hread (i : Nat) (h : i < (s.byteAt 1).toNat + 2) : (s.storeReply b).byteAt i = s.byteAt i :=
    storeReply_byteAt_of_ne b (hi ▸ Nat.ne_of_lt h)
  have hlen := hread 1 (by omega)
  cases op with
  | readMeas =>
    by_cases h13 : s.byteAt 1 = 13
    · rw [h13] at hread
      exact decodeReply_congr s.cfg .readMeas fun i _ h10 => hread i (Nat.lt_of_le_of_lt h10 (by decide))
    by_cases h5 : s.byteAt 1 = 5
    · rw [h5] at hread
      simp only [decodeReply, decodeMeas, hread 1 (by decide), hread 2 (by decide), h13, false_and, if_false,
        hread 3 (by decide), hread 4 (by decide), hread 5 (by decide), hread 6 (by decide)]
    · rw [decodeReply, decodeReply, decodeMeas_of_other (.inl ⟨h13, h5⟩),
        decodeMeas_of_other (.inl ⟨hlen ▸ h13, hlen ▸ h5⟩)]
  | readCoef =>
    by_cases h2 : s.byteAt 1 = 2
    · rw [h2] at hread
      simp only [decodeReply, decodeCoef, hread 1 (by decide), hread 2 (by decide), hread 3 (by decide)]
    · rw [decodeReply, decodeReply, decodeCoef_of_mismatch (h2 ·.1), decodeCoef_of_mismatch (h2 <| hlen ▸ ·.1)]
  | startMeas | stopMeas | setCoef | enAutosend | stopAutosend => rfl

section
variable {p : PortIn} {s : State} {b : Byte} {op : Op} {k : Result} {w : Writes}

/-- The checksum byte of a good reply ends the exchange as the decode of the bytes already in BUF says (R79, R80). -/
theorem Inv.clockEdge_goodChecksum (hinv : Inv s) (hr : p.rst = false) (hs : s.st = .rxBody) (he : p.rxErr = false)
    (hx : p.rx = some b) (hop : s.op = op.bits) (hi : s.idx.toNat = (s.byteAt 1).toNat + 2) (ha : s.acc + b = 0x00)
    (hd : decodeReply s.cfg op s.byteAt = some (k, w)) : clockEdge p s = .next (decodedEnd b k w s) :=
  (EdgeStep.bodyDecoded b op k w hr hs he hx (hinv.idx_lt_cap (.inr hs)) ((index_eq_checksumIndex_iff _ _).mpr hi) ha hop
    ((decodeReply_storeChecksum op hi b).trans hd)).clockEdge_eq

theorem Inv.decodedEnd_paylen (hinv : Inv s) (hs : s.st = .rxBody) (b : Byte) (k : Result) (w : Writes) :
    (decodedEnd b k w s).paylen = s.byteAt 1 := by
  rw [decodedEnd, complete_paylen, applyWrites_paylen]
  exact (hinv.storeReply_keeps_header hs b).2

end

/-! ## The statements -/

/-- Settles O47, from the concatenation. -/
theorem wordAssemblyIsBigEndian : Obligations.WordAssemblyIsBigEndian := by
  intro hi lo
  rw [u16_eq_append, BitVec.toNat_append, ← Nat.shiftLeft_add_eq_or_of_lt lo.isLt, Nat.shiftLeft_eq]

/-- Settles O27: the decode of the bytes in BUF, by the shape of the reply. -/
theorem measurementDecode : Obligations.MeasurementDecode := by
  intro p s b hinv hr hs he hx hop hi ha
  have hd : decodeReply s.cfg .readMeas s.byteAt = some ((decodeMeas s.byteAt).1, (decodeMeas s.byteAt).2) := rfl
  refine ⟨_, hinv.clockEdge_goodChecksum hr hs he hx hop hi ha hd, rfl, rfl, hinv.decodedEnd_paylen hs b _ _,
    applyWrites_decodeMeas_coef _ _, fun hlen hecho => ?_, fun hlen hecho => ?_, fun hother => ?_⟩
  · rw [decodeMeas_of_compact hlen hecho]
    exact ⟨rfl, rfl, rfl, rfl, rfl, rfl⟩
  · rw [decodeMeas_of_standard hlen hecho]
    exact ⟨rfl, rfl, rfl, rfl, rfl, rfl⟩
  · rw [decodeMeas_of_other hother]
    exact ⟨rfl, rfl, rfl, rfl, rfl, rfl⟩

/-- Settles O28: the decode of the bytes in BUF, by whether LEN and the echo are the reply's. -/
theorem coefficientDecode : Obligations.CoefficientDecode := by
  intro p s b hinv hr hs he hx hop hi ha
  by_cases hmatch : s.byteAt 1 = 2 ∧ s.byteAt 2 = s.cfg.cmdReadCoef
  · have hd := congrArg some (decodeCoef_of_match hmatch)
    exact ⟨_, hinv.clockEdge_goodChecksum hr hs he hx hop hi ha hd, rfl, rfl, hinv.decodedEnd_paylen hs b _ _, rfl, rfl, rfl,
      rfl, rfl, fun _ _ => ⟨rfl, rfl⟩, fun hother => absurd hmatch (not_and_or.mpr hother)⟩
  · have hd := congrArg some (decodeCoef_of_mismatch hmatch)
    exact ⟨_, hinv.clockEdge_goodChecksum hr hs he hx hop hi ha hd, rfl, rfl, hinv.decodedEnd_paylen hs b _ _, rfl, rfl, rfl,
      rfl, rfl, fun hlen hecho => absurd ⟨hlen, hecho⟩ hmatch, fun _ => ⟨rfl, rfl⟩⟩

end Sys2Proof.Machine
end

section
/-! SUPPORT. What the ports and STATUS show after a completion (R109, R22). -/

namespace Sys2Proof.Machine

theorem busy_eq_false_iff (s : State) : s.busy = false ↔ s.st = .idle := bne_eq_false_iff_eq

/-- STATUS of an idle block with a result to show: DONE above the code, BUSY clear (R22). -/
theorem status_of_idle_done {s : State} (hs : s.st = .idle) (hd : s.done = true) :
    s.status = 0b00001#5 ++ s.code := by
  rw [State.status, (busy_eq_false_iff s).mpr hs, hd]
  rfl

/-! ## The statement -/

/-- Settles O14: a completed exchange stands in IDLE with DONE set, which fixes the ports and STATUS. -/
theorem completionRecordsTheResult : Obligations.CompletionRecordsTheResult := by
  intro k s
  have hidle : (complete k s).st = .idle := complete_st k s
  exact ⟨rfl, (reqReady_iff _).mpr hidle, (busy_eq_false_iff _).mpr hidle, status_of_idle_done hidle (complete_done k s)⟩

end Sys2Proof.Machine
end

section
/-! SUPPORT. The reset edge, from every state and from a power-up (R120, R122), and FLUSH under an unbroken stream (R128). -/

namespace Sys2Proof.Machine

/-! ## The reset edge -/

/-- A reset edge resets the state past that edge, whatever the rest of the environment's move (R120). -/
theorem step_of_reset {s : State} (hr : s.edge.rst = true) : step s = .next (resetState s.afterEdge) :=
  (EdgeStep.reset hr).clockEdge_eq

@[simp] theorem resetState_byteAt (s : State) (i : Nat) : (resetState s).byteAt i = s.byteAt i := rfl
@[simp] theorem afterEdge_byteAt (s : State) (i : Nat) : s.afterEdge.byteAt i = s.byteAt i := rfl

/-- Reset establishes the sequencer's invariant where BUF, which it does not write, has its part of it. -/
theorem inv_resetState {s : State} (hwf : s.buf.wf = true) (hin : s.buf.within s.cfg.cap = true) : Inv (resetState s) where
  bufCanonical := hwf
  bufWithin := hin
  index := rfl
  body := nofun
  deadline := Config.timeout_pos s.cfg
  doneClear := absurd rfl
  opLatched := by simp
  codeLegal := by simp

/-- The other three invariants hold after a reset of any state. -/
theorem accIsReplySum_resetState (s : State) : AccIsReplySum (resetState s) := accIsReplySum_of_idle rfl
theorem frameStaged_resetState (s : State) : FrameStaged (resetState s) := frameStaged_of_st nofun nofun
theorem invalidPairZero_resetState (s : State) : InvalidPairZero (resetState s) := fun _ => ⟨rfl, rfl⟩

/-! ## Power-up -/

section
variable (cfg : Config) (link : Transport) (script : List Edge)

/-- A power-up BUF lists nothing, so every index reads as its draw (R122; log 4). -/
theorem powerUp_byteAt (i : Nat) : (State.powerUp cfg link script).byteAt i = Config.bufPowerUp i := rfl

theorem powerUp_st_bits : (State.powerUp cfg link script).st.bits = (Config.powerUp 0).setWidth 3 := SeqState.bits_ofBits _

/-- Whatever the draws, a reset after power-up establishes the sequencer's invariant: BUF is still empty. -/
theorem inv_reset_powerUp : Inv (resetState (State.powerUp cfg link script).afterEdge) := inv_resetState rfl rfl

end

/-! ## The statements -/

/-- Settles O22: each edge of the run drops its byte. -/
theorem flushMayNeverEnd : Obligations.FlushMayNeverEnd :=
  fun ps _ hs hps => runPorts_flushDrop ps hs hps

/-- Settles O17: the step resets the state past the edge, whose transport has lost and been handed what transferred. -/
theorem resetEdge : Obligations.ResetEdge := by
  intro s hr
  refine ⟨_, step_of_reset hr, rfl, rfl, rfl, rfl, rfl, rfl, rfl, rfl, rfl, rfl, rfl, rfl, rfl, rfl, rfl, ?buf, ?held, ?sent⟩
  case buf => simp
  case held => exact fun b rest ho hheld hready => linkAfter_held_of_taken hready ho hheld
  case sent => exact fun hs ht => linkAfter_sent_of_taken hs ht

/-- Settles O18: the draws stand in their elements, and the reset edge replaces all of them but BUF, which is empty. -/
theorem resetAfterPowerUp : Obligations.ResetAfterPowerUp := by
  refine ⟨SeqState.bits_ofBits, ?_⟩
  rintro cfg link script _ rfl
  refine ⟨powerUp_st_bits cfg link script, rfl, rfl, rfl, rfl, rfl, rfl, rfl, rfl, rfl, rfl, rfl, rfl, rfl, rfl,
    powerUp_byteAt cfg link script, fun hr => ?_⟩
  refine ⟨_, step_of_reset hr, rfl, rfl, rfl, rfl, rfl, rfl, rfl, rfl, rfl, rfl, rfl, rfl, rfl, rfl, rfl, ?_⟩
  exact ⟨powerUp_byteAt cfg link script, rfl, inv_reset_powerUp cfg link script, accIsReplySum_resetState _,
    frameStaged_resetState _, invalidPairZero_resetState _⟩

end Sys2Proof.Machine
end

section
/-! SUPPORT. Where nothing is decoded and where nothing is defined: instructions presented out of their place (log 9), placed
words (log 2, log 5), and the encodings that only a power-up leaves (log 6, log 7). -/

namespace Sys2Proof.Machine

/-! ## Instructions out of their place -/

/-- Outside IDLE a request instruction changes nothing, since `req_ready` = 0 there (R49, R69). -/
theorem exec_request_of_busy {s : State} (hs : s.st ≠ .idle) (op : Op) (d : Byte) :
    exec (requestInstr op d) s = .next s := by
  rw [exec_requestInstr, presentRequest, if_neg hs]

/-- Where no header is being classified, a pair changes nothing, whatever its two results are. -/
theorem classify_of_notClassifying {s : State} (h : s.st ≠ .rxHdr ∨ s.idx = 0) (ack data : State → State) :
    classify ack data s = .next s := by
  refine if_neg fun hc => ?_
  obtain ⟨hs, hi⟩ := (classifying_iff s).mp hc
  exact h.elim (· hs) hi

/-! ## Placed words -/

/-- An offered request is decoded and run by the next step, on the state past that edge (R69). -/
theorem step_offerRequest (c : BitVec 3) (d : Byte) (s : State) :
    step (offerRequest c d s) = exec (decode (.request c d)) (offerRequest c d s).afterEdge :=
  (stepRunsTheDecodedInstruction (offerRequest c d s) rfl).1 _ rfl rfl

/-- An offered header pair is decoded and run by the next step, once its second byte is stored at IDX 1 (R76, R77). -/
theorem step_offerHeader (b0 b1 : Byte) (s : State) :
    step (offerHeader b0 b1 s) = exec (decode (.header b0 b1)) ((offerHeader b0 b1 s).afterEdge.storeReply b1) := by
  have hcap : (offerHeader b0 b1 s).idx.toNat < (offerHeader b0 b1 s).cfg.cap :=
    Nat.lt_of_lt_of_le (by decide : 1 < 16) (Config.cap_ge _)
  have hfirst : (offerHeader b0 b1 s).byteAt 0 = b0 := Memory.read_write_same s.buf 0 b0
  have hrun := ((stepRunsTheDecodedInstruction (offerHeader b0 b1 s) rfl).2 b1 _ rfl (by decide : (1 : Index) ≠ 0) hcap
    rfl rfl rfl).1
  rw [hfirst] at hrun
  exact hrun

/-- A request's table word, read and placed: its low byte holds the code and its high byte `req_data` (log 5). -/
theorem tableWord_of_req {nbits : Nat} (hf : tableFormat nbits = .req) (w : Nat) :
    ∃ c d, decodeTableWord nbits w = some (decode (.request c d)) ∧
      ∀ s : State, s.withFetchWord nbits w = offerRequest c d s := by
  refine ⟨(BitVec.ofNat 8 w).extractLsb' 0 3, BitVec.ofNat 8 (w / 256), ?_, fun s => ?_⟩
  · simp only [decodeTableWord, tableBytes, hf, decodeBytes]
  · simp only [State.withFetchWord, tableBytes, hf, placeBytes]

/-- A header's table word, read and placed: its high byte is the first of the pair (log 5). -/
theorem tableWord_of_rxHeader {nbits : Nat} (hf : tableFormat nbits = .rxHeader) (w : Nat) :
    ∃ b0, decodeTableWord nbits w = some (decode (.header b0 (BitVec.ofNat 8 w))) ∧
      ∀ s : State, s.withFetchWord nbits w = offerHeader b0 (BitVec.ofNat 8 w) s := by
  refine ⟨BitVec.ofNat 8 (w / 256), ?_, fun s => ?_⟩
  · simp only [decodeTableWord, tableBytes, hf, decodeBytes]
  · simp only [State.withFetchWord, tableBytes, hf, placeBytes]

/-! ## Edges that read ST's or OP's encoding -/

section
variable {p : PortIn} {s : State}

/-- An unused encoding of ST has no rule (log 6). -/
theorem clockEdge_of_unused (hr : p.rst = false) {n : Fin 3} (hs : s.st = .unused n) :
    clockEdge p s = .fault (.noSequencerState n) := by
  simp [clockEdge, hr, hs]

/-- A TX byte taken is counted against the frame length of the operation in OP (R73, R74). -/
theorem clockEdge_of_txTaken (hr : p.rst = false) (hs : s.st = .tx) (he : p.txErr = false) (ht : p.txReady = true)
    (hc : s.idx.toNat < s.cfg.cap) : clockEdge p s = whenOperation s fun op => .next (byteSent op s) := by
  simp [clockEdge, hr, hs, txRule, he, ht, whenIndexed_of_lt hc]

/-- The checksum byte of a reply runs Finish, with that byte stored (R79, R80). -/
theorem clockEdge_of_checksumByte (hr : p.rst = false) (hs : s.st = .rxBody) (he : p.rxErr = false) {b : Byte}
    (hx : p.rx = some b) (hc : s.idx.toNat < s.cfg.cap) (hi : s.idx = (s.byteAt 1).setWidth 9 + 2) :
    clockEdge p s = finish (s.acc + b) (s.storeReply b) := by
  simp only [clockEdge, hr, hs, receiveWait, he, hx, bodyByte, whenIndexed_of_lt hc, if_pos hi, Bool.false_eq_true,
    if_false]

end

/-- With the reserved code in OP a good sum has no decode to go to (log 6). -/
theorem finish_of_reserved {s : State} (hop : s.op = 0b111) : finish 0x00 s = .fault .noOperation := by
  rw [finish, if_neg (not_not_intro rfl), whenOperation_of_reserved hop]

/-! ## The statements -/

/-- Settles O7: a request instruction presents its operation, which only IDLE accepts. -/
theorem requestOutsideIdleHasNoEffect : Obligations.RequestOutsideIdleHasNoEffect :=
  fun op d _ hs => exec_request_of_busy hs op d

/-- Settles O12: each header row is a classification, which acts only in RX_HDR with a byte stored. -/
theorem headerOutsideItsPlaceHasNoEffect : Obligations.HeaderOutsideItsPlaceHasNoEffect := by
  intro s hs
  have h := classify_of_notClassifying hs
  exact ⟨h _ _, h _ _, fun _ => h _ _, fun _ _ => h _ _⟩

/-- Settles O16: by the word's format, the word read and the word placed are one request or one header pair. -/
theorem placedWordIsTheNextInstruction : Obligations.PlacedWordIsTheNextInstruction := by
  intro s nbits w
  cases hf : tableFormat nbits with
  | req =>
    obtain ⟨c, d, hread, hplaced⟩ := tableWord_of_req hf w
    rw [hplaced]
    refine ⟨_, hread, ?_⟩
    rintro _ rfl
    exact ⟨fun _ => ⟨rfl, step_offerRequest c d s⟩, nofun⟩
  | rxHeader =>
    obtain ⟨b0, hread, hplaced⟩ := tableWord_of_rxHeader hf w
    rw [hplaced]
    refine ⟨_, hread, ?_⟩
    rintro _ rfl
    exact ⟨nofun, fun _ => ⟨rfl, rfl, step_offerHeader b0 (BitVec.ofNat 8 w) s⟩⟩

/-- Settles O19: an unused ST has no rule, and each of the three edges comes to ask what operation OP holds. -/
theorem unusedEncodingsStopTheBlock : Obligations.UnusedEncodingsStopTheBlock := by
  refine ⟨fun p s n hr hs => clockEdge_of_unused hr hs, fun p s hr hop hc => ⟨?tx, ?header, ?checksum⟩⟩
  case tx =>
    intro hs he ht
    rw [clockEdge_of_txTaken hr hs he ht hc, whenOperation_of_reserved hop]
  case header =>
    intro b hs hi he hx
    rw [clockEdge_of_secondByte hr hs he hx hi hc]
    exact exec_decode_header_reserved _ _ ((classifying_iff _).mpr ⟨hs, hi⟩) hop
  case checksum =>
    intro b hs hi ha he hx
    rw [clockEdge_of_checksumByte hr hs he hx hc hi, ha]
    exact finish_of_reserved hop

end Sys2Proof.Machine
end
